-- ==== Sys2Proof/Word.lean ====
section
/-! DEFINITION. The word types of the machine (00_scope.md R6: every value is unsigned; 10_state.md R21, R23, R27). -/

namespace Sys2Proof

/-- A byte: a `V` register, a timer, a memory or framebuffer cell (R21, R29, R50). -/
abbrev Byte := BitVec 8

/-- A 16-bit word: `I`, `pc`, a stack entry, an instruction word (R23, R27, R28, R70). -/
abbrev Word := BitVec 16

/-- The number of a `V` register, 0..15: the 4-bit fields `x` and `y` (R21, R71). -/
abbrev Reg := Fin 16

/-- A 12-bit address operand `nnn` (R71). -/
abbrev Addr := BitVec 12

/-- A 4-bit count, the field `n` of Dxyn (R71). -/
abbrev Nibble := BitVec 4

/-- VF, the register that doubles as the flag (R22, R25). -/
abbrev VF : Reg := 15

end Sys2Proof
end

