-- ==== Sys2Proof/Config.lean ====
section
/-! DEFINITION. What is fixed of the hardware (00_scope.md R5) and the three parameters the spec leaves OPEN (log 1). -/

namespace Sys2Proof

/-- The register the two shift instructions read (10_state.md R35, 42_alu.md R130). -/
inductive ShiftSrc where
  | vy
  | vx
  deriving DecidableEq, Repr

/-- MEM_SIZE of R5: the number of bytes of memory. -/
abbrev memSize : Nat := 4096

/-- The number of bytes of the font table (FONT_GLYPHS * GLYPH_BYTES of R5). -/
abbrev fontBytes : Nat := 80

/-- The three OPEN parameters of R5, "a named parameter the model takes as an argument" (D3, D5, D20).
The bound `FONT_BASE + 80 <= 4096` is the type of `fontBase`. -/
structure Config where
  /-- FONT_BASE -/
  fontBase : Fin 4017
  /-- RNG_SEED -/
  rngSeed  : BitVec 32
  /-- SHIFT_SRC -/
  shiftSrc : ShiftSrc
  deriving DecidableEq, Repr

end Sys2Proof
end

