-- ==== Sys2Proof/WellFormed.lean ====
section
/-! DEFINITION. The instructions that some word encodes. Register numbers, immediates and counts are bounded by their
types; the one check left is R75's: 0nnn does not stand for the words 00E0 and 00EE. -/

namespace Sys2Proof

/-- `i` is the meaning of some word: a 0nnn instruction is neither 00E0 nor 00EE (30_encoding.md R75, R79). -/
def Instr.wellFormed : Instr → Bool
  | .sys nnn => nnn != 0x0E0#12 && nnn != 0x0EE#12
  | .cls | .ret | .jp _ | .call _ | .seImm _ _ | .sneImm _ _ | .seReg _ _ | .ldImm _ _ | .addImm _ _ | .ldReg _ _
  | .orReg _ _ | .andReg _ _ | .xorReg _ _ | .addReg _ _ | .subReg _ _ | .shr _ _ | .subnReg _ _ | .shl _ _
  | .sneReg _ _ | .ldI _ | .jpV0 _ | .rnd _ _ | .drw _ _ _ | .skp _ | .sknp _ | .ldVxDT _ | .ldVxK _ | .ldDTVx _
  | .ldSTVx _ | .addI _ | .ldF _ | .ldB _ | .store _ | .load _ => true

end Sys2Proof
end

