-- ==== Sys2Proof/Decode.lean ====
section
/-! DEFINITION. The fields of a word (30_encoding.md R71), the decoder (R75), the encoder and the opcode table (R73, R74). -/

namespace Sys2Proof

/-! ### Fields (R71) -/

/-- `a`: the major opcode, bits 15..12. -/
def fieldA (w : Word) : BitVec 4 := w.extractLsb' 12 4

/-- `x`: bits 11..8. -/
def fieldX (w : Word) : Reg := (w.extractLsb' 8 4).toFin

/-- `y`: bits 7..4. -/
def fieldY (w : Word) : Reg := (w.extractLsb' 4 4).toFin

/-- `n`: bits 3..0. -/
def fieldN (w : Word) : Nibble := w.extractLsb' 0 4

/-- `nn`: bits 7..0. -/
def fieldNN (w : Word) : Byte := w.extractLsb' 0 8

/-- `nnn`: bits 11..0. -/
def fieldNNN (w : Word) : Addr := w.extractLsb' 0 12

/-- The instruction word of two bytes, the first one high (20_memory.md R56; log 6). -/
def wordOfBytes (first second : Byte) : Word := first ++ second

/-- The byte of a word that lies at the lower address (R56; log 6). -/
def firstByte (w : Word) : Byte := w.extractLsb' 8 8

/-- The byte of a word that lies at the higher address (R56; log 6). -/
def secondByte (w : Word) : Byte := w.extractLsb' 0 8

/-! ### Decoding (R75) -/

/-- Why bytes are not an instruction. -/
inductive DecodeError where
  /-- No pattern matches the word (R78). -/
  | illegalInstruction (opcode : Word)
  /-- Fewer than two bytes are left (R70). -/
  | truncated
  deriving DecidableEq, Repr

/-- Words with `a = 0` (R75): the two fixed words first, then the no-op 0nnn. -/
def decodeZero (w : Word) : Instr :=
  if w = 0x00E0#16 then .cls else if w = 0x00EE#16 then .ret else .sys (fieldNNN w)

/-- Words with `a = 8` (R75), by `n`. -/
def decodeAlu (w : Word) : Option Instr :=
  match (fieldN w).toNat with
  | 0x0 => some (.ldReg (fieldX w) (fieldY w))
  | 0x1 => some (.orReg (fieldX w) (fieldY w))
  | 0x2 => some (.andReg (fieldX w) (fieldY w))
  | 0x3 => some (.xorReg (fieldX w) (fieldY w))
  | 0x4 => some (.addReg (fieldX w) (fieldY w))
  | 0x5 => some (.subReg (fieldX w) (fieldY w))
  | 0x6 => some (.shr (fieldX w) (fieldY w))
  | 0x7 => some (.subnReg (fieldX w) (fieldY w))
  | 0xE => some (.shl (fieldX w) (fieldY w))
  | _ => none

/-- Words with `a = 0xE` (R75), by `nn`. -/
def decodeKey (w : Word) : Option Instr :=
  match (fieldNN w).toNat with
  | 0x9E => some (.skp (fieldX w))
  | 0xA1 => some (.sknp (fieldX w))
  | _ => none

/-- Words with `a = 0xF` (R75), by `nn`. -/
def decodeMisc (w : Word) : Option Instr :=
  match (fieldNN w).toNat with
  | 0x07 => some (.ldVxDT (fieldX w))
  | 0x0A => some (.ldVxK (fieldX w))
  | 0x15 => some (.ldDTVx (fieldX w))
  | 0x18 => some (.ldSTVx (fieldX w))
  | 0x1E => some (.addI (fieldX w))
  | 0x29 => some (.ldF (fieldX w))
  | 0x33 => some (.ldB (fieldX w))
  | 0x55 => some (.store (fieldX w))
  | 0x65 => some (.load (fieldX w))
  | _ => none

/-- The instruction of a word, or none for the illegal words of R78 (R75). -/
def decode? (w : Word) : Option Instr :=
  match (fieldA w).toNat with
  | 0x0 => some (decodeZero w)
  | 0x1 => some (.jp (fieldNNN w))
  | 0x2 => some (.call (fieldNNN w))
  | 0x3 => some (.seImm (fieldX w) (fieldNN w))
  | 0x4 => some (.sneImm (fieldX w) (fieldNN w))
  | 0x5 => if fieldN w = 0 then some (.seReg (fieldX w) (fieldY w)) else none
  | 0x6 => some (.ldImm (fieldX w) (fieldNN w))
  | 0x7 => some (.addImm (fieldX w) (fieldNN w))
  | 0x8 => decodeAlu w
  | 0x9 => if fieldN w = 0 then some (.sneReg (fieldX w) (fieldY w)) else none
  | 0xA => some (.ldI (fieldNNN w))
  | 0xB => some (.jpV0 (fieldNNN w))
  | 0xC => some (.rnd (fieldX w) (fieldNN w))
  | 0xD => some (.drw (fieldX w) (fieldY w) (fieldN w))
  | 0xE => decodeKey w
  | _ => decodeMisc w

/-- The decoder: "An unmatched pattern fails with illegal-instruction carrying the raw 16-bit opcode" (R78). -/
def decode (w : Word) : Except DecodeError Instr :=
  match decode? w with
  | some i => .ok i
  | none => .error (.illegalInstruction w)

/-- The decoder on bytes in memory order: two bytes an instruction, the rest handed back (R70, R56). -/
def decodeBytes : List Byte → Except DecodeError (Instr × List Byte)
  | first :: second :: rest => (decode (wordOfBytes first second)).map fun i => (i, rest)
  | [_] | [] => .error .truncated

/-- The instruction the decoder reads from an instruction whose bits are `w`, numbered as
spec/opcode_table.json numbers them: one 16-bit word, bit 0 the least significant; bits from `nbits` up are 0. The
word is laid out as the hardware stores it, first byte high, and given to the decoder. -/
def decodeTableWord (nbits w : Nat) : Option Instr :=
  let word : Word := BitVec.ofNat 16 (w % 2 ^ nbits)
  match decodeBytes [firstByte word, secondByte word] with
  | .ok (i, _) => some i
  | .error _ => none

/-! ### Encoding (R73, R74) -/

/-- The 4 bits of a register number. -/
def regBits (r : Reg) : BitVec 4 := BitVec.ofFin r

/-- Format NNN of R73. -/
def formatNNN (a : BitVec 4) (nnn : Addr) : Word := a ++ nnn

/-- Format XNN of R73; format X is XNN with a fixed `nn`. -/
def formatXNN (a : BitVec 4) (x : Reg) (nn : Byte) : Word := a ++ regBits x ++ nn

/-- Formats XY and XYN of R73. -/
def formatXYN (a : BitVec 4) (x y : Reg) (n : BitVec 4) : Word := a ++ regBits x ++ regBits y ++ n

/-- The word of a well-formed instruction (R74). -/
def encode : Instr → Word
  | .cls => 0x00E0#16
  | .ret => 0x00EE#16
  | .sys nnn => formatNNN 0x0#4 nnn
  | .jp nnn => formatNNN 0x1#4 nnn
  | .call nnn => formatNNN 0x2#4 nnn
  | .seImm x nn => formatXNN 0x3#4 x nn
  | .sneImm x nn => formatXNN 0x4#4 x nn
  | .seReg x y => formatXYN 0x5#4 x y 0x0#4
  | .ldImm x nn => formatXNN 0x6#4 x nn
  | .addImm x nn => formatXNN 0x7#4 x nn
  | .ldReg x y => formatXYN 0x8#4 x y 0x0#4
  | .orReg x y => formatXYN 0x8#4 x y 0x1#4
  | .andReg x y => formatXYN 0x8#4 x y 0x2#4
  | .xorReg x y => formatXYN 0x8#4 x y 0x3#4
  | .addReg x y => formatXYN 0x8#4 x y 0x4#4
  | .subReg x y => formatXYN 0x8#4 x y 0x5#4
  | .shr x y => formatXYN 0x8#4 x y 0x6#4
  | .subnReg x y => formatXYN 0x8#4 x y 0x7#4
  | .shl x y => formatXYN 0x8#4 x y 0xE#4
  | .sneReg x y => formatXYN 0x9#4 x y 0x0#4
  | .ldI nnn => formatNNN 0xA#4 nnn
  | .jpV0 nnn => formatNNN 0xB#4 nnn
  | .rnd x nn => formatXNN 0xC#4 x nn
  | .drw x y n => formatXYN 0xD#4 x y n
  | .skp x => formatXNN 0xE#4 x 0x9E#8
  | .sknp x => formatXNN 0xE#4 x 0xA1#8
  | .ldVxDT x => formatXNN 0xF#4 x 0x07#8
  | .ldVxK x => formatXNN 0xF#4 x 0x0A#8
  | .ldDTVx x => formatXNN 0xF#4 x 0x15#8
  | .ldSTVx x => formatXNN 0xF#4 x 0x18#8
  | .addI x => formatXNN 0xF#4 x 0x1E#8
  | .ldF x => formatXNN 0xF#4 x 0x29#8
  | .ldB x => formatXNN 0xF#4 x 0x33#8
  | .store x => formatXNN 0xF#4 x 0x55#8
  | .load x => formatXNN 0xF#4 x 0x65#8

/-- The two bytes of an instruction in memory order (R56; log 6). -/
def encodeBytes (i : Instr) : List Byte := [firstByte (encode i), secondByte (encode i)]

/-! ### The opcode table (R74, R84) -/

/-- One row of the table of R74: a word `w` has the row's pattern when `w & mask = bits`. -/
structure OpcodeRow where
  mask : Word
  bits : Word
  deriving DecidableEq, Repr

/-- The row of R74 an instruction belongs to. -/
def Instr.row : Instr → OpcodeRow
  | .cls => ⟨0xFFFF#16, 0x00E0#16⟩
  | .ret => ⟨0xFFFF#16, 0x00EE#16⟩
  | .sys _ => ⟨0xF000#16, 0x0000#16⟩
  | .jp _ => ⟨0xF000#16, 0x1000#16⟩
  | .call _ => ⟨0xF000#16, 0x2000#16⟩
  | .seImm _ _ => ⟨0xF000#16, 0x3000#16⟩
  | .sneImm _ _ => ⟨0xF000#16, 0x4000#16⟩
  | .seReg _ _ => ⟨0xF00F#16, 0x5000#16⟩
  | .ldImm _ _ => ⟨0xF000#16, 0x6000#16⟩
  | .addImm _ _ => ⟨0xF000#16, 0x7000#16⟩
  | .ldReg _ _ => ⟨0xF00F#16, 0x8000#16⟩
  | .orReg _ _ => ⟨0xF00F#16, 0x8001#16⟩
  | .andReg _ _ => ⟨0xF00F#16, 0x8002#16⟩
  | .xorReg _ _ => ⟨0xF00F#16, 0x8003#16⟩
  | .addReg _ _ => ⟨0xF00F#16, 0x8004#16⟩
  | .subReg _ _ => ⟨0xF00F#16, 0x8005#16⟩
  | .shr _ _ => ⟨0xF00F#16, 0x8006#16⟩
  | .subnReg _ _ => ⟨0xF00F#16, 0x8007#16⟩
  | .shl _ _ => ⟨0xF00F#16, 0x800E#16⟩
  | .sneReg _ _ => ⟨0xF00F#16, 0x9000#16⟩
  | .ldI _ => ⟨0xF000#16, 0xA000#16⟩
  | .jpV0 _ => ⟨0xF000#16, 0xB000#16⟩
  | .rnd _ _ => ⟨0xF000#16, 0xC000#16⟩
  | .drw _ _ _ => ⟨0xF000#16, 0xD000#16⟩
  | .skp _ => ⟨0xF0FF#16, 0xE09E#16⟩
  | .sknp _ => ⟨0xF0FF#16, 0xE0A1#16⟩
  | .ldVxDT _ => ⟨0xF0FF#16, 0xF007#16⟩
  | .ldVxK _ => ⟨0xF0FF#16, 0xF00A#16⟩
  | .ldDTVx _ => ⟨0xF0FF#16, 0xF015#16⟩
  | .ldSTVx _ => ⟨0xF0FF#16, 0xF018#16⟩
  | .addI _ => ⟨0xF0FF#16, 0xF01E#16⟩
  | .ldF _ => ⟨0xF0FF#16, 0xF029#16⟩
  | .ldB _ => ⟨0xF0FF#16, 0xF033#16⟩
  | .store _ => ⟨0xF0FF#16, 0xF055#16⟩
  | .load _ => ⟨0xF0FF#16, 0xF065#16⟩

/-- The 35 rows of R74 in its order: the two rows with mask FFFF stand before 0nnn (R84). -/
def opcodeTable : List OpcodeRow :=
  [⟨0xFFFF#16, 0x00E0#16⟩, ⟨0xFFFF#16, 0x00EE#16⟩, ⟨0xF000#16, 0x0000#16⟩, ⟨0xF000#16, 0x1000#16⟩, ⟨0xF000#16, 0x2000#16⟩]
  ++ [⟨0xF000#16, 0x3000#16⟩, ⟨0xF000#16, 0x4000#16⟩, ⟨0xF00F#16, 0x5000#16⟩, ⟨0xF000#16, 0x6000#16⟩, ⟨0xF000#16, 0x7000#16⟩]
  ++ [⟨0xF00F#16, 0x8000#16⟩, ⟨0xF00F#16, 0x8001#16⟩, ⟨0xF00F#16, 0x8002#16⟩, ⟨0xF00F#16, 0x8003#16⟩, ⟨0xF00F#16, 0x8004#16⟩]
  ++ [⟨0xF00F#16, 0x8005#16⟩, ⟨0xF00F#16, 0x8006#16⟩, ⟨0xF00F#16, 0x8007#16⟩, ⟨0xF00F#16, 0x800E#16⟩, ⟨0xF00F#16, 0x9000#16⟩]
  ++ [⟨0xF000#16, 0xA000#16⟩, ⟨0xF000#16, 0xB000#16⟩, ⟨0xF000#16, 0xC000#16⟩, ⟨0xF000#16, 0xD000#16⟩, ⟨0xF0FF#16, 0xE09E#16⟩]
  ++ [⟨0xF0FF#16, 0xE0A1#16⟩, ⟨0xF0FF#16, 0xF007#16⟩, ⟨0xF0FF#16, 0xF00A#16⟩, ⟨0xF0FF#16, 0xF015#16⟩, ⟨0xF0FF#16, 0xF018#16⟩]
  ++ [⟨0xF0FF#16, 0xF01E#16⟩, ⟨0xF0FF#16, 0xF029#16⟩, ⟨0xF0FF#16, 0xF033#16⟩, ⟨0xF0FF#16, 0xF055#16⟩, ⟨0xF0FF#16, 0xF065#16⟩]

/-- The first row of the table a word matches. -/
def tableRow? (w : Word) : Option OpcodeRow := opcodeTable.find? fun r => w &&& r.mask == r.bits

end Sys2Proof
end

