-- ==== Sys2Proof/Machine/Defaults.lean ====
section
/-! DEFINITION. The values the model names for State.reset where the spec leaves a parameter OPEN (log 1), and the parameter
FONT_STRIDE. -/

namespace Sys2Proof.Machine

/-- The values 70_reset_and_hazards.md R258 names for the three OPEN parameters, for its vectors: FONT_BASE 0x050,
seed 0x00000001, shift VY. DESIGN CHOICE of the model for State.reset (log 1). -/
def defaultConfig : Config :=
  { fontBase := 0x050, rngSeed := 0x00000001#32, shiftSrc := .vy }

/-- FONT_STRIDE = 1 (00_scope.md R5; 90_conflicts.md C3; log 10). -/
def fontStride : Nat := 1

end Sys2Proof.Machine
end

