-- ==== Sys2Proof/Machine/State.lean ====
section
/-! DEFINITION. The whole state of one core (10_state.md R20), its reset values (R38), the error kinds (60_exceptions.md R210)
and the ways a step can stop. -/

namespace Sys2Proof.Machine

/-- The complete state of one core: "Nothing else is state" (R20). `config` is the model's own field: the three OPEN
parameters of 00_scope.md R5, which nothing changes (log 1). -/
structure State where
  /-- `V[0..15]`, the general registers; `V[15]` is VF (R21, R22, R25). -/
  v        : Vector Byte 16
  /-- `I`, the index register (R27). -/
  i        : Word
  /-- `pc`, the address of the next instruction to fetch (R23). -/
  pc       : Word
  /-- `stack[0..15]`, the return addresses (R28). -/
  stack    : Vector Word 16
  /-- `sp`, the number of used entries, "always in [0, capacity]" (R28). -/
  sp       : Fin 17
  /-- `DT`, the delay timer (R29). -/
  dt       : Byte
  /-- `ST`, the sound timer (R29). -/
  st       : Byte
  /-- `keys[0..15]`, true when pressed (R30). -/
  keys     : Vector Bool 16
  /-- `fb[0..255]`, the framebuffer, row-major, leftmost pixel in the most significant bit (R31). -/
  fb       : Vector Byte 256
  /-- `redraw`, the one-shot redraw flag (R32). -/
  redraw   : Bool
  /-- `rng`, the state word of the generator (R34). -/
  rng      : BitVec 32
  /-- `mem[0..4095]`: the bytes that differ from their reset content, by rising address (R33; log 4). -/
  mem      : List Host.Cell
  /-- `shift_src`, the shift-source toggle (R35). -/
  shiftSrc : ShiftSrc
  /-- The OPEN parameters FONT_BASE, RNG_SEED, SHIFT_SRC (R5; log 1). -/
  config   : Config
  deriving DecidableEq, Repr

/-- The state after RESET for given values of the OPEN parameters (R38, R191; log 5). -/
def State.resetWith (c : Config) : State :=
  { v := Vector.replicate 16 0, i := 0, pc := 0x0200#16, stack := Vector.replicate 16 0, sp := 0, dt := 0, st := 0,
    keys := Vector.replicate 16 false, fb := Vector.replicate 256 0, redraw := false, rng := c.rngSeed, mem := [],
    shiftSrc := c.shiftSrc, config := c }

/-- The machine right after reset, at the parameter values of log 1. -/
def State.reset : State := State.resetWith defaultConfig

/-- The six error kinds a command can return (60_exceptions.md R210). -/
inductive ErrorKind where
  | illegalInstruction (opcode : Word)
  | illegalAddress
  | illegalRegister
  | illegalKey
  | stackOverflow
  | stackUnderflow
  deriving DecidableEq, Repr

/-- Why `step` stops: the STEP command returned `Err` (R218), which R223 asks a model to treat as a fault. `after` is the
exact state the command leaves (R10, R219), from which a host may go on (Machine/Commands.lean). All six are safe: the model
stops where the hardware has handed an error to its host (log 2). -/
inductive Fault where
  /-- Raised by step when the fetched word matches no pattern (R211). Safe. -/
  | illegalInstruction (opcode : Word) (after : State)
  /-- Raised by the fetch and by Dxyn, Fx33, Fx55, Fx65 when an access passes the end of memory (R212). Safe. -/
  | illegalAddress (after : State)
  /-- Raised by nothing an instruction can do; it is kept because the error type keeps it (R213; log 19). Safe. -/
  | illegalRegister (after : State)
  /-- Raised by Ex9E and ExA1 when the register exceeds 15 (R214). Safe. -/
  | illegalKey (after : State)
  /-- Raised by 2nnn when the stack is full (R215). Safe. -/
  | stackOverflow (after : State)
  /-- Raised by 00EE when the stack is empty (R216). Safe. -/
  | stackUnderflow (after : State)
  deriving DecidableEq, Repr

/-- Why the model has no meaning for an instruction. -/
inductive Refusal where
  /-- Raised by exec's arm of an instruction that has no meaning yet; no arm of this model is such. Safe. -/
  | notModelled (mnemonic : String)
  deriving DecidableEq, Repr

/-- What an instruction's meaning answers. -/
abbrev Result := Host.Outcome State Fault Refusal

end Sys2Proof.Machine
end

