-- ==== Sys2Proof/Machine/Memory.lean ====
section
/-! DEFINITION. Memory as a list of cells in one canonical form, its reset content, and one byte's read and write
(10_state.md R33; 20_memory.md R50, R60). Every wider access is built from these in Ops.lean. -/

namespace Sys2Proof.Machine

/-- FONT, the 80 bytes of the sixteen glyphs (10_state.md R33; log 4). -/
def font : List Byte :=
  [0xF0#8, 0x90#8, 0x90#8, 0x90#8, 0xF0#8] ++ [0x20#8, 0x60#8, 0x20#8, 0x20#8, 0x70#8]
  ++ [0xF0#8, 0x10#8, 0xF0#8, 0x80#8, 0xF0#8] ++ [0xF0#8, 0x10#8, 0xF0#8, 0x10#8, 0xF0#8]
  ++ [0x90#8, 0x90#8, 0xF0#8, 0x10#8, 0x10#8] ++ [0xF0#8, 0x80#8, 0xF0#8, 0x10#8, 0xF0#8]
  ++ [0xF0#8, 0x80#8, 0xF0#8, 0x90#8, 0xF0#8] ++ [0xF0#8, 0x10#8, 0x20#8, 0x40#8, 0x40#8]
  ++ [0xF0#8, 0x90#8, 0xF0#8, 0x90#8, 0xF0#8] ++ [0xF0#8, 0x90#8, 0xF0#8, 0x10#8, 0xF0#8]
  ++ [0xF0#8, 0x90#8, 0xF0#8, 0x90#8, 0x90#8] ++ [0xE0#8, 0x90#8, 0xE0#8, 0x90#8, 0xE0#8]
  ++ [0xF0#8, 0x80#8, 0x80#8, 0x80#8, 0xF0#8] ++ [0xE0#8, 0x90#8, 0x90#8, 0x90#8, 0xE0#8]
  ++ [0xF0#8, 0x80#8, 0xF0#8, 0x80#8, 0xF0#8] ++ [0xF0#8, 0x80#8, 0xF0#8, 0x80#8, 0x80#8]

/-- What an address that is not listed reads as: its reset content, the font at FONT_BASE and 0 elsewhere (R33, R60). -/
def Memory.background (c : Config) (a : Nat) : Byte :=
  if c.fontBase.val ≤ a then font.getD (a - c.fontBase.val) 0 else 0

/-- The byte at an address. -/
def Memory.read (c : Config) : List Host.Cell → Nat → Byte
  | [], a => Memory.background c a
  | (k, b) :: rest, a => if k = a then b else Memory.read c rest a

/-- List a cell, keeping the addresses rising. -/
def Memory.insert (a : Nat) (b : Byte) : List Host.Cell → List Host.Cell
  | [] => [(a, b)]
  | (k, x) :: rest =>
    if a < k then (a, b) :: (k, x) :: rest
    else if a = k then (a, b) :: rest
    else (k, x) :: Memory.insert a b rest

/-- Unlist a cell. -/
def Memory.erase (a : Nat) : List Host.Cell → List Host.Cell
  | [] => []
  | (k, x) :: rest => if k = a then rest else (k, x) :: Memory.erase a rest

/-- Write one byte; a byte equal to the reset content is unlisted, so that equal memories are equal lists. -/
def Memory.write (c : Config) (m : List Host.Cell) (a : Nat) (b : Byte) : List Host.Cell :=
  if b = Memory.background c a then Memory.erase a m else Memory.insert a b m

/-- Write the bytes of a list to consecutive addresses, lowest first (20_memory.md R54). -/
def Memory.writeList (c : Config) (m : List Host.Cell) (a : Nat) : List Byte → List Host.Cell
  | [] => m
  | b :: rest => Memory.writeList c (Memory.write c m a b) (a + 1) rest

/-- The `n` bytes from an address, lowest address first (20_memory.md R53). -/
def Memory.readList (c : Config) (m : List Host.Cell) (a : Nat) : Nat → List Byte
  | 0 => []
  | n + 1 => Memory.read c m a :: Memory.readList c m (a + 1) n

/-- The canonical form from an address up: addresses rising and below 4096, no cell equal to its reset content. -/
def Memory.wfFrom (c : Config) : Nat → List Host.Cell → Bool
  | _, [] => true
  | lo, (k, b) :: rest =>
    decide (lo ≤ k) && decide (k < memSize) && b != Memory.background c k && Memory.wfFrom c (k + 1) rest

/-- The canonical form of a memory: equal memories are equal lists. -/
def Memory.wf (c : Config) (m : List Host.Cell) : Bool := Memory.wfFrom c 0 m

end Sys2Proof.Machine
end

