-- ==== Sys2Proof/Machine/Operands.lean ====
section
/-! DEFINITION. The operand forms: registers, immediates, the index register, the program counter and the shift source
(30_encoding.md R76; 10_state.md R21 to R35; 42_alu.md R130). -/

namespace Sys2Proof.Machine

/-! ### Registers -/

/-- `V[x]` (00_scope.md R8). -/
def State.getV (s : State) (x : Reg) : Byte := s.v[x]

/-- `V[x] <- b`. No register is hardwired (R21). -/
def State.setV (s : State) (x : Reg) (b : Byte) : State := { s with v := s.v.set x b }

/-- `I <- w` (R27). -/
def State.setI (s : State) (w : Word) : State := { s with i := w }

/-- `pc <- w` (R23). -/
def State.setPc (s : State) (w : Word) : State := { s with pc := w }

/-- `DT <- b` (R29). -/
def State.setDT (s : State) (b : Byte) : State := { s with dt := b }

/-- `ST <- b` (R29). -/
def State.setST (s : State) (b : Byte) : State := { s with st := b }

/-- `keys <- snapshot` (R30). -/
def State.setKeys (s : State) (snapshot : Vector Bool 16) : State := { s with keys := snapshot }

/-- `fb <- f` (R31). -/
def State.setFb (s : State) (f : Vector Byte 256) : State := { s with fb := f }

/-- `redraw <- b` (R32). -/
def State.setRedraw (s : State) (b : Bool) : State := { s with redraw := b }

/-- `rng <- w` (R34). -/
def State.setRng (s : State) (w : BitVec 32) : State := { s with rng := w }

/-- `mem <- m` (R33). -/
def State.setMem (s : State) (m : List Host.Cell) : State := { s with mem := m }

/-- `shift_src <- v` (R35). -/
def State.setShiftSrc (s : State) (v : ShiftSrc) : State := { s with shiftSrc := v }

/-- `stack <- e; sp <- n` (R28). -/
def State.setStack (s : State) (e : Vector Word 16) (n : Fin 17) : State := { s with stack := e, sp := n }

/-- `V[k] <- b[0], V[k+1] <- b[1], ...` in rising order (20_memory.md R68). -/
def writeRegs (v : Vector Byte 16) (k : Nat) : List Byte → Vector Byte 16
  | [] => v
  | b :: rest => writeRegs (v.setIfInBounds k b) (k + 1) rest

/-- `V[0..15] <- v`. -/
def State.setRegs (s : State) (v : Vector Byte 16) : State := { s with v := v }

/-- `[V[0], ..., V[x]]` (43_index_memory.md R144). -/
def State.regsUpTo (s : State) (x : Reg) : List Byte := s.v.toList.take (x.val + 1)

/-- The register file's own check of an index (30_encoding.md R77): an index outside 0..15 is `IllegalRegister`. A register
number of an instruction has 4 bits and always passes it (log 19). -/
def registerPort (index : Nat) : Except ErrorKind Reg :=
  if h : index < 16 then .ok ⟨index, h⟩ else .error .illegalRegister

/-! ### Immediates and sums (R76) -/

/-- `zext_16` of a 12-bit address. -/
def zextAddr (nnn : Addr) : Word := nnn.setWidth 16

/-- `zext_16` of a byte. -/
def zextByte (b : Byte) : Word := b.setWidth 16

/-- The register the shifts read: `V[y]` or `V[x]` by the toggle (42_alu.md R130). -/
def State.shiftSource (s : State) (x y : Reg) : Byte :=
  match s.shiftSrc with
  | .vy => s.getV y
  | .vx => s.getV x

/-- `FONT_BASE + FONT_STRIDE * zext_16(b)` (43_index_memory.md R142; log 10). -/
def State.fontAddress (s : State) (b : Byte) : Word :=
  BitVec.ofNat 16 (s.config.fontBase.val + fontStride * b.toNat)

/-- The three decimal digits of a byte: hundreds, tens, ones (43_index_memory.md R143; log 11). -/
def decimalDigits (t : Byte) : List Byte :=
  [BitVec.ofNat 8 (t.toNat / 100), BitVec.ofNat 8 (t.toNat % 100 / 10), BitVec.ofNat 8 (t.toNat % 10)]

/-! ### Keys -/

/-- `keys[k]` for the key a register names: the whole byte is the index, above 15 it is `IllegalKey`
(46_keypad.md R170, D31). -/
def State.keyNamedBy (s : State) (x : Reg) : Except ErrorKind Bool :=
  let k := (s.getV x).toNat
  if h : k < 16 then .ok s.keys[k] else .error .illegalKey

/-- The least index of a pressed key, if any (46_keypad.md R172). -/
def State.lowestKey? (s : State) : Option Nat := s.keys.toList.findIdx? id

end Sys2Proof.Machine
end

