-- ==== Sys2Proof/Machine/Flags.lean ====
section
/-! DEFINITION. Every flag computation (10_state.md R25). The one flag is VF; the value is 0 or 1. -/

namespace Sys2Proof.Machine

/-- 0 or 1 as a register value (R25). -/
def flagByte (b : Bool) : Byte := if b then 1 else 0

/-- `V[15] <- 0 or 1` (R25). -/
def State.setFlag (s : State) (b : Bool) : State := s.setV VF (flagByte b)

/-- 8xy4: the unsigned sum exceeds 255 (42_alu.md R126). -/
def carryOf (p q : Byte) : Bool := decide (255 < p.toNat + q.toNat)

/-- 8xy5 and 8xy7: the minuend is less than the subtrahend (42_alu.md R127, R128; 90_conflicts.md C4). -/
def borrowOf (minuend subtrahend : Byte) : Bool := decide (minuend.toNat < subtrahend.toNat)

/-- 8xy6: the bit a shift right drops (42_alu.md R129). -/
def lowBitOf (src : Byte) : Bool := src.getLsbD 0

/-- 8xyE: the bit a shift left drops (42_alu.md R131). -/
def highBitOf (src : Byte) : Bool := src.getLsbD 7

/-- Result first, flag second: 8xy4, 8xy5, 8xy7 (10_state.md R26; log 7). -/
def State.resultThenFlag (s : State) (x : Reg) (result : Byte) (flag : Bool) : State :=
  (s.setV x result).setFlag flag

/-- Flag first, result second: 8xy6, 8xyE (10_state.md R26; log 7). -/
def State.flagThenResult (s : State) (x : Reg) (result : Byte) (flag : Bool) : State :=
  (s.setFlag flag).setV x result

end Sys2Proof.Machine
end

