-- ==== Sys2Proof/Machine/Blit.lean ====
section
/-! DEFINITION. The sprite-blit engine (45_display.md R160) and the same blit byte by byte (R161). -/

namespace Sys2Proof.Machine

/-- The framebuffer while a sprite is drawn, and the collision seen so far (`col` of R160). -/
structure Canvas where
  fb  : Vector Byte 256
  hit : Bool
  deriving DecidableEq, Repr

/-- `fb[k]`; no rule reads an index above 255. -/
def fbByte (fb : Vector Byte 256) (k : Nat) : Byte := fb[k]?.getD 0

/-- XOR a mask into `fb[k]`; a collision when a bit of the mask was lit (R160; log 13). -/
def Canvas.xorByte (c : Canvas) (k : Nat) (mask : Byte) : Canvas :=
  { fb := c.fb.setIfInBounds k (fbByte c.fb k ^^^ mask), hit := c.hit || (fbByte c.fb k &&& mask != 0) }

/-- Pixel `(px, py)` is lit: bit `7 - (px mod 8)` of `fb[py*8 + px div 8]` (10_state.md R31; log 13). -/
def pixel (fb : Vector Byte 256) (px py : Nat) : Bool := (fbByte fb (py * 8 + px / 8)).getLsbD (7 - px % 8)

/-- Touch pixel `(px, py)`: clipped at the right edge, else XORed (R160). -/
def Canvas.touch (c : Canvas) (px py : Nat) : Canvas :=
  if px < 64 then c.xorByte (py * 8 + px / 8) (0x80#8 >>> (px % 8)) else c

/-- The sprite pixel `j` of a row byte, 0 the leftmost: bit `7 - j` (R160; log 13). -/
def spriteBit (row : Byte) (j : Nat) : Bool := row.getLsbD (7 - j)

/-- One sprite row at a start column and a visible row, pixel by pixel from the left (R160). -/
def Canvas.drawRow (c : Canvas) (x0 py : Nat) (row : Byte) : Canvas :=
  (List.range 8).foldl (fun c j => if spriteBit row j then c.touch (x0 + j) py else c) c

/-- The rows of a sprite from row `py` down; rows below the bottom edge are dropped (R160). -/
def Canvas.drawRows (c : Canvas) (x0 py : Nat) : List Byte → Canvas
  | [] => c
  | row :: rest => (if py < 32 then c.drawRow x0 py row else c).drawRows x0 (py + 1) rest

/-- `Blit(x, y, rows)` (R160): the start column wraps once, the row does not. -/
def blit (x y : Byte) (rows : List Byte) (fb : Vector Byte 256) : Canvas :=
  Canvas.drawRows { fb := fb, hit := false } (x.toNat % 64) y.toNat rows

/-- One sprite row byte by byte (R161). -/
def Canvas.drawRowBytes (c : Canvas) (x0 py : Nat) (row : Byte) : Canvas :=
  let off := x0 % 8
  let c0 := x0 / 8
  let k0 := py * 8 + c0
  let first := c.xorByte k0 (row >>> off)
  if off ≠ 0 ∧ c0 < 7 then first.xorByte (k0 + 1) (row <<< (8 - off)) else first

/-- The rows of a sprite, byte by byte (R161). -/
def Canvas.drawRowsBytes (c : Canvas) (x0 py : Nat) : List Byte → Canvas
  | [] => c
  | row :: rest => (if py < 32 then c.drawRowBytes x0 py row else c).drawRowsBytes x0 (py + 1) rest

/-- The blit as the source describes its implementation (R161): "change `fb` identically and return the same `col`". -/
def blitBytes (x y : Byte) (rows : List Byte) (fb : Vector Byte 256) : Canvas :=
  Canvas.drawRowsBytes { fb := fb, hit := false } (x.toNat % 64) y.toNat rows

end Sys2Proof.Machine
end

