-- ==== Sys2Proof/Machine/Ops.lean ====
section
/-! DEFINITION. The shared operations of the instructions: raising an error, the pc updates, memory accesses, the stack, the
generator and the display (00_scope.md R9). -/

namespace Sys2Proof.Machine

/-! ### Errors (60_exceptions.md R218, R219; 00_scope.md R10; log 2) -/

/-- Raise an error, the machine's only exception: there is no trap entry, no saved register and no handler. The STEP command
ends with `Err`, and the state stays as it is where the error is raised (R10, R218). There is no return from it (R221). -/
def raise (e : ErrorKind) (s : State) : Result :=
  match e with
  | .illegalInstruction w => .fault (.illegalInstruction w s)
  | .illegalAddress => .fault (.illegalAddress s)
  | .illegalRegister => .fault (.illegalRegister s)
  | .illegalKey => .fault (.illegalKey s)
  | .stackOverflow => .fault (.stackOverflow s)
  | .stackUnderflow => .fault (.stackUnderflow s)

/-- The error kind of a fault (R210). -/
def Fault.kind : Fault → ErrorKind
  | .illegalInstruction w _ => .illegalInstruction w
  | .illegalAddress _ => .illegalAddress
  | .illegalRegister _ => .illegalRegister
  | .illegalKey _ => .illegalKey
  | .stackOverflow _ => .stackOverflow
  | .stackUnderflow _ => .stackUnderflow

/-- The state the STEP command leaves when it returns the error (R219). -/
def Fault.after : Fault → State
  | .illegalInstruction _ s | .illegalAddress s | .illegalRegister s | .illegalKey s | .stackOverflow s
  | .stackUnderflow s => s

/-- The spec's number of an error kind; 0 would be `Ok` (R210; log 24). -/
def ErrorKind.code : ErrorKind → Nat
  | .illegalInstruction _ => 1
  | .illegalAddress => 2
  | .illegalRegister => 3
  | .illegalKey => 4
  | .stackOverflow => 5
  | .stackUnderflow => 6

/-- Go on with a value, or raise the error met. -/
def orRaise {α : Type} (s : State) (x : Except ErrorKind α) (go : α → Result) : Result :=
  match x with
  | .ok a => go a
  | .error e => raise e s

/-! ### The program counter (10_state.md R23, R24; log 22) -/

/-- Step 2 of the instruction cycle: `pc <- wrap16(pc + 2)` (30_encoding.md R72). -/
def State.advance (s : State) : State := s.setPc (s.pc + 2)

/-- Undo the advance: `pc <- wrap16(pc - 2)` (46_keypad.md R172). -/
def State.rewind (s : State) : State := s.setPc (s.pc - 2)

/-- Skip the next instruction when a condition holds: a further `pc <- wrap16(pc + 2)` (41_skip.md R114). -/
def State.skipIf (s : State) (c : Bool) : State := if c then s.setPc (s.pc + 2) else s

/-! ### Memory (20_memory.md R51 to R55) -/

/-- The byte at an address. -/
def State.readByte (s : State) (a : Nat) : Byte := Memory.read s.config s.mem a

/-- `MemRead(addr, n)`: the whole range is checked before any byte is read (R53; log 22). -/
def State.memRead (s : State) (a n : Nat) : Except ErrorKind (List Byte) :=
  if memSize < a + n then .error .illegalAddress else .ok (Memory.readList s.config s.mem a n)

/-- `MemWrite(addr, n, v)`: the whole range is checked before any byte is written (R54; log 9, log 22). -/
def State.memWrite (s : State) (a : Nat) (bytes : List Byte) : Except ErrorKind State :=
  if memSize < a + bytes.length then .error .illegalAddress
  else .ok (s.setMem (Memory.writeList s.config s.mem a bytes))

/-- Instruction fetch: `MemRead(pc, 2)` and nothing more, first byte high (R55, R56). -/
def State.fetch (s : State) : Except ErrorKind Word :=
  if memSize < s.pc.toNat + 2 then .error .illegalAddress
  else .ok (wordOfBytes (s.readByte s.pc.toNat) (s.readByte (s.pc.toNat + 1)))

/-! ### The stack (40_flow.md R100, R101; log 8) -/

/-- `Push(v)`: capacity is checked before anything is written (R100). -/
def State.push (s : State) (w : Word) : Except ErrorKind State :=
  if h : s.sp.val < 16 then .ok (s.setStack (s.stack.set s.sp.val w) ⟨s.sp.val + 1, by omega⟩)
  else .error .stackOverflow

/-- `Pop()`: the entry popped and the state after; the entry keeps its value in the array (R101). -/
def State.pop (s : State) : Except ErrorKind (Word × State) :=
  if h : 0 < s.sp.val then
    .ok (s.stack[s.sp.val - 1], s.setStack s.stack ⟨s.sp.val - 1, by omega⟩)
  else .error .stackUnderflow

/-! ### The generator (44_random.md R150; log 14) -/

/-- The xorshift transform: left 13, right 17, left 5, each XORed into the running value (R150). -/
def xorshift (s0 : BitVec 32) : BitVec 32 :=
  let s1 := s0 ^^^ (s0 <<< 13)
  let s2 := s1 ^^^ (s1 >>> 17)
  s2 ^^^ (s2 <<< 5)

/-- `Rand()`: the low byte of the new state, and the state with the generator advanced once (R150). -/
def State.rand (s : State) : Byte × State :=
  ((xorshift s.rng).setWidth 8, s.setRng (xorshift s.rng))

/-! ### The display (45_display.md R164) -/

/-- `Clear()`: every byte 0, `redraw` set (R164). -/
def State.clear (s : State) : State := (s.setFb (Vector.replicate 256 0)).setRedraw true

end Sys2Proof.Machine
end

