-- ==== Sys2Proof/Machine/Alu.lean ====
section
/-! DEFINITION. Register load and ALU (42_alu.md). Source registers are read before any register is written (R133). -/

namespace Sys2Proof.Machine

/-- 6xnn: load immediate (R120). -/
def execLdImm (x : Reg) (nn : Byte) (s : State) : Result := .next (s.setV x nn)

/-- 7xnn: add immediate, "flag register untouched" (R121). -/
def execAddImm (x : Reg) (nn : Byte) (s : State) : Result := .next (s.setV x (s.getV x + nn))

/-- 8xy0: move (R122). -/
def execLdReg (x y : Reg) (s : State) : Result := .next (s.setV x (s.getV y))

/-- 8xy1: bitwise or; VF is not reset (R123; log 12). -/
def execOrReg (x y : Reg) (s : State) : Result := .next (s.setV x (s.getV x ||| s.getV y))

/-- 8xy2: bitwise and (R124; log 12). -/
def execAndReg (x y : Reg) (s : State) : Result := .next (s.setV x (s.getV x &&& s.getV y))

/-- 8xy3: bitwise exclusive or (R125; log 12). -/
def execXorReg (x y : Reg) (s : State) : Result := .next (s.setV x (s.getV x ^^^ s.getV y))

/-- 8xy4: add with carry out (R126). -/
def execAddReg (x y : Reg) (s : State) : Result :=
  .next (s.resultThenFlag x (s.getV x + s.getV y) (carryOf (s.getV x) (s.getV y)))

/-- 8xy5: subtract, the flag is the borrow (R127). -/
def execSubReg (x y : Reg) (s : State) : Result :=
  .next (s.resultThenFlag x (s.getV x - s.getV y) (borrowOf (s.getV x) (s.getV y)))

/-- 8xy7: reverse subtract, the flag is the borrow (R128). -/
def execSubnReg (x y : Reg) (s : State) : Result :=
  .next (s.resultThenFlag x (s.getV y - s.getV x) (borrowOf (s.getV y) (s.getV x)))

/-- 8xy6: shift right by one (R129). -/
def execShr (x y : Reg) (s : State) : Result :=
  .next (s.flagThenResult x (s.shiftSource x y >>> 1) (lowBitOf (s.shiftSource x y)))

/-- 8xyE: shift left by one (R131). -/
def execShl (x y : Reg) (s : State) : Result :=
  .next (s.flagThenResult x (s.shiftSource x y <<< 1) (highBitOf (s.shiftSource x y)))

end Sys2Proof.Machine
end

