-- ==== Sys2Proof/Machine/Display.lean ====
section
/-! DEFINITION. The display instructions (45_display.md). -/

namespace Sys2Proof.Machine

/-- 00E0: clear the display, mark redraw (R165). -/
def execCls (s : State) : Result := .next s.clear

/-- Dxyn: draw a sprite. The sprite is read whole, the coordinates before VF is written; VF and `redraw` are written also when
nothing is drawn (R166, R167). -/
def execDrw (x y : Reg) (n : Nibble) (s : State) : Result :=
  orRaise s (s.memRead s.i.toNat n.toNat) fun rows =>
    let c := blit (s.getV x) (s.getV y) rows s.fb
    .next (((s.setFb c.fb).setFlag c.hit).setRedraw true)

end Sys2Proof.Machine
end

