-- ==== Sys2Proof/Machine/Flow.lean ====
section
/-! DEFINITION. Control transfer and the stack (40_flow.md). In every meaning `s.pc` is already the address of the next
instruction (30_encoding.md R72). -/

namespace Sys2Proof.Machine

/-- 00EE: return from subroutine (R102). -/
def execRet (s : State) : Result := orRaise s s.pop fun r => .next (r.2.setPc r.1)

/-- 0nnn: "no-op (unsupported machine-subroutine call; deliberately ignored, not an error)" (R103). -/
def execSys (_nnn : Addr) (s : State) : Result := .next s

/-- 1nnn: jump (R104). -/
def execJp (nnn : Addr) (s : State) : Result := .next (s.setPc (zextAddr nnn))

/-- 2nnn: push the advanced counter, jump (R105). -/
def execCall (nnn : Addr) (s : State) : Result := orRaise s (s.push s.pc) fun t => .next (t.setPc (zextAddr nnn))

/-- Bnnn: jump with offset V0; the sum is not reduced to 12 bits (R106). -/
def execJpV0 (nnn : Addr) (s : State) : Result := .next (s.setPc (zextAddr nnn + zextByte (s.getV 0)))

end Sys2Proof.Machine
end

