-- ==== Sys2Proof/Machine/Index.lean ====
section
/-! DEFINITION. The index register and memory transfer (43_index_memory.md). The three memory instructions leave `I` as it is
(20_memory.md R67; log 12). -/

namespace Sys2Proof.Machine

/-- Annn: load index (R140). -/
def execLdI (nnn : Addr) (s : State) : Result := .next (s.setI (zextAddr nnn))

/-- Fx1E: add register to index, modulo 65536 (R141). -/
def execAddI (x : Reg) (s : State) : Result := .next (s.setI (s.i + zextByte (s.getV x)))

/-- Fx29: point index at font data, unscaled (R142; log 10). -/
def execLdF (x : Reg) (s : State) : Result := .next (s.setI (s.fontAddress (s.getV x)))

/-- Fx33: store the three decimal digits of a register (R143). -/
def execLdB (x : Reg) (s : State) : Result :=
  orRaise s (s.memWrite s.i.toNat (decimalDigits (s.getV x))) fun t => .next t

/-- Fx55: store registers V0 to Vx (R144). -/
def execStore (x : Reg) (s : State) : Result :=
  orRaise s (s.memWrite s.i.toNat (s.regsUpTo x)) fun t => .next t

/-- Fx65: load registers V0 to Vx (R145). -/
def execLoad (x : Reg) (s : State) : Result :=
  orRaise s (s.memRead s.i.toNat (x.val + 1)) fun b => .next (s.setRegs (writeRegs s.v 0 b))

end Sys2Proof.Machine
end

