-- ==== Sys2Proof/Machine/Keypad.lean ====
section
/-! DEFINITION. The keypad instructions (46_keypad.md). None writes `keys` (R173). -/

namespace Sys2Proof.Machine

/-- Ex9E: skip if the key named by a register is pressed (R170). -/
def execSkp (x : Reg) (s : State) : Result := orRaise s (s.keyNamedBy x) fun down => .next (s.skipIf down)

/-- ExA1: skip if the key named by a register is not pressed (R171). -/
def execSknp (x : Reg) (s : State) : Result := orRaise s (s.keyNamedBy x) fun down => .next (s.skipIf (!down))

/-- Fx0A: wait for a key: with none pressed the instruction runs again, else the least index is loaded (R172; log 16). -/
def execLdVxK (x : Reg) (s : State) : Result :=
  match s.lowestKey? with
  | none => .next s.rewind
  | some k => .next (s.setV x (BitVec.ofNat 8 k))

end Sys2Proof.Machine
end

