-- ==== Sys2Proof/Machine/Random.lean ====
section
/-! DEFINITION. The pseudo-random instruction (44_random.md). -/

namespace Sys2Proof.Machine

/-- Cxnn: masked random byte; the generator advances exactly once (R151). -/
def execRnd (x : Reg) (nn : Byte) (s : State) : Result := .next (s.rand.2.setV x (s.rand.1 &&& nn))

end Sys2Proof.Machine
end

