-- ==== Sys2Proof/Machine/Skip.lean ====
section
/-! DEFINITION. The conditional skips on registers (41_skip.md). -/

namespace Sys2Proof.Machine

/-- 3xnn: skip if register equals immediate (R110). -/
def execSeImm (x : Reg) (nn : Byte) (s : State) : Result := .next (s.skipIf (s.getV x == nn))

/-- 4xnn: skip if register differs from immediate (R111). -/
def execSneImm (x : Reg) (nn : Byte) (s : State) : Result := .next (s.skipIf (s.getV x != nn))

/-- 5xy0: skip if two registers are equal (R112). -/
def execSeReg (x y : Reg) (s : State) : Result := .next (s.skipIf (s.getV x == s.getV y))

/-- 9xy0: skip if two registers differ (R113). -/
def execSneReg (x y : Reg) (s : State) : Result := .next (s.skipIf (s.getV x != s.getV y))

end Sys2Proof.Machine
end

