-- ==== Sys2Proof/Machine/Timers.lean ====
section
/-! DEFINITION. The timer instructions (47_timers.md). Counting down is the host's TICK (Commands.lean). -/

namespace Sys2Proof.Machine

/-- Fx07: read the delay timer (R180). -/
def execLdVxDT (x : Reg) (s : State) : Result := .next (s.setV x s.dt)

/-- Fx15: set the delay timer (R181). -/
def execLdDTVx (x : Reg) (s : State) : Result := .next (s.setDT (s.getV x))

/-- Fx18: set the sound timer (R182). -/
def execLdSTVx (x : Reg) (s : State) : Result := .next (s.setST (s.getV x))

end Sys2Proof.Machine
end

