-- ==== Sys2Proof/Machine/Step.lean ====
section
/-! DEFINITION. One STEP: the instruction cycle (30_encoding.md R72), and the placing of an instruction where it is fetched. -/

namespace Sys2Proof.Machine

/-- The instruction cycle of R72: fetch, `pc <- wrap16(pc + 2)`, decode, handler. A fetch error leaves everything as it was,
any other error the state with the pc advanced (60_exceptions.md R219). -/
def step (s : State) : Host.Outcome State Fault Refusal :=
  match s.fetch with
  | .error e => raise e s
  | .ok w =>
    match decode w with
    | .error _ => raise (.illegalInstruction w) s.advance
    | .ok i => exec i s.advance

/-- `s` with the instruction whose bits are `w` stored where `step` fetches: its two bytes at `pc` and `pc + 1`, first byte
high. It stands for the host's LOAD_ROM (log 3). Nothing can be stored where no fetch succeeds (`pc` of 4095 or more): there
the state is left as it is (log 20). -/
def State.withFetchWord (s : State) (nbits w : Nat) : State :=
  let word : Word := BitVec.ofNat 16 (w % 2 ^ nbits)
  match s.memWrite s.pc.toNat [firstByte word, secondByte word] with
  | .ok t => t
  | .error _ => s

end Sys2Proof.Machine
end

