-- ==== Sys2Proof/Machine/Commands.lean ====
section
/-! DEFINITION. The eleven commands of the host interface (49_host_interface.md R190 to R203), each one indivisible transition
with its result. -/

namespace Sys2Proof.Machine

/-- The commands. The lengths of R195 and R200 are in the types: 16 key levels, 256 framebuffer bytes (log 18). -/
inductive Command where
  /-- RESET (R191) -/
  | reset
  /-- LOAD_ROM(addr, bytes) (R192) -/
  | loadRom (addr : Nat) (bytes : List Byte)
  /-- STEP (R193) -/
  | step
  /-- TICK (R194) -/
  | tick
  /-- SET_KEYS(snapshot) (R195) -/
  | setKeys (snapshot : Vector Bool 16)
  /-- READ_FB (R196) -/
  | readFb
  /-- TAKE_REDRAW (R197) -/
  | takeRedraw
  /-- BEEPING (R198) -/
  | beeping
  /-- SEED(s) (R199) -/
  | seed (s : BitVec 32)
  /-- LOAD_FB(bytes) (R200) -/
  | loadFb (bytes : Vector Byte 256)
  /-- SET_SHIFT_SRC(v) (R201) -/
  | setShiftSrc (v : ShiftSrc)
  deriving DecidableEq, Repr

/-- What a command returns. -/
inductive Response where
  /-- No result. -/
  | done
  /-- `Ok` of STEP and LOAD_ROM. -/
  | ok
  /-- `Err e` of STEP and LOAD_ROM (60_exceptions.md R218). -/
  | err (e : ErrorKind)
  /-- The 256 bytes of READ_FB. -/
  | frame (bytes : Vector Byte 256)
  /-- The bit of TAKE_REDRAW and BEEPING. -/
  | bit (b : Bool)
  /-- STEP met an instruction the model has no meaning for; no instruction of this model is such. -/
  | unmodelled (r : Refusal)
  deriving DecidableEq, Repr

/-- LOAD_ROM (R192): nothing is copied and pc stays when the bytes do not fit (log 18). -/
def loadRom (addr : Nat) (bytes : List Byte) (s : State) : State × Response :=
  match s.memWrite addr bytes with
  | .error e => (s, .err e)
  | .ok t => (t.setPc (BitVec.ofNat 16 addr), .ok)

/-- STEP (R193): after an `Err` the state is as the raising rule left it, and further STEPs are accepted (R219; log 2). -/
def stepCommand (s : State) : State × Response :=
  match step s with
  | .next t => (t, .ok)
  | .fault f => (f.after, .err f.kind)
  | .refused r => (s, .unmodelled r)

/-- A timer one TICK later: "by exactly one ..., never below zero" (R194). -/
def countDown (b : Byte) : Byte := if b = 0 then 0 else b - 1

/-- TICK (R194; log 18). -/
def tick (s : State) : State := (s.setDT (countDown s.dt)).setST (countDown s.st)

/-- BEEPING: `ST != 0` (R198). -/
def State.beeping (s : State) : Bool := s.st != 0

/-- One command of the host (R190). -/
def command (c : Command) (s : State) : State × Response :=
  match c with
  | .reset => (State.resetWith s.config, .done)
  | .loadRom addr bytes => loadRom addr bytes s
  | .step => stepCommand s
  | .tick => (tick s, .done)
  | .setKeys snapshot => (s.setKeys snapshot, .done)
  | .readFb => (s, .frame s.fb)
  | .takeRedraw => (s.setRedraw false, .bit s.redraw)
  | .beeping => (s, .bit s.beeping)
  | .seed r => (s.setRng r, .done)
  | .loadFb bytes => (s.setFb bytes, .done)
  | .setShiftSrc v => (s.setShiftSrc v, .done)

/-- The commands of a list in order: the state after the last and the responses (R190). -/
def commands : List Command → State → State × List Response
  | [], s => (s, [])
  | c :: rest, s =>
    let r := command c s
    let r' := commands rest r.1
    (r'.1, r.2 :: r'.2)

/-- LAUNCH(addr, bytes, seed, shift): RESET, SEED, SET_SHIFT_SRC, LOAD_ROM (70_reset_and_hazards.md R258). The
spec defines it only where LOAD_ROM returns `Ok`, that is where the bytes fit; where they do not, this function gives the reset
state with the seed and the toggle set, pc 0x0200 and nothing loaded (DESIGN CHOICE, log 26). -/
def launch (c : Config) (addr : Nat) (bytes : List Byte) (seed : BitVec 32) (shift : ShiftSrc) : State :=
  (commands [.reset, .seed seed, .setShiftSrc shift, .loadRom addr bytes] (State.resetWith c)).1

end Sys2Proof.Machine
end

