-- ==== Sys2Proof/Safety.lean ====
section
/-! DEFINITION. The terms the statements use: what an instruction may write (10_state.md R20, R25), the invariant of the machine,
what a run's end is (70_reset_and_hazards.md R257), frames, and equality of two states on what a program can see (R37). -/

namespace Sys2Proof

/-! ### What an instruction writes (R20, "Written by"; R25) -/

/-- The registers an instruction may write: its destination, VF for the flag instructions and Dxyn, V0..Vx for Fx65
(10_state.md R21, R25; 43_index_memory.md R145). -/
def Instr.mayWriteV (i : Instr) (r : Reg) : Prop :=
  match i with
  | .ldImm x _ | .addImm x _ | .ldReg x _ | .orReg x _ | .andReg x _ | .xorReg x _ | .rnd x _ | .ldVxDT x | .ldVxK x => r = x
  | .addReg x _ | .subReg x _ | .subnReg x _ | .shr x _ | .shl x _ => r = x ∨ r = VF
  | .drw _ _ _ => r = VF
  | .load x => r.val ≤ x.val
  | .cls | .ret | .sys _ | .jp _ | .call _ | .seImm _ _ | .sneImm _ _ | .seReg _ _ | .sneReg _ _ | .ldI _ | .jpV0 _
  | .skp _ | .sknp _ | .ldDTVx _ | .ldSTVx _ | .addI _ | .ldF _ | .ldB _ | .store _ => False

/-- The number of bytes an instruction stores at `I`: 3 for Fx33, x + 1 for Fx55, none otherwise (20_memory.md R58). -/
def Instr.storeBytes : Instr → Nat
  | .ldB _ => 3
  | .store x => x.val + 1
  | .cls | .ret | .sys _ | .jp _ | .call _ | .seImm _ _ | .sneImm _ _ | .seReg _ _ | .ldImm _ _ | .addImm _ _ | .ldReg _ _
  | .orReg _ _ | .andReg _ _ | .xorReg _ _ | .addReg _ _ | .subReg _ _ | .shr _ _ | .subnReg _ _ | .shl _ _
  | .sneReg _ _ | .ldI _ | .jpV0 _ | .rnd _ _ | .drw _ _ _ | .skp _ | .sknp _ | .ldVxDT _ | .ldVxK _ | .ldDTVx _
  | .ldSTVx _ | .addI _ | .ldF _ | .load _ => 0

end Sys2Proof

namespace Sys2Proof.Machine

/-! ### The invariant -/

/-- What every command keeps: memory is in its canonical form, pc never passes 0x10FE (10_state.md R24), and a stack entry is
0 or a pc value a CALL pushed, at most 4096 (40_flow.md R102). -/
structure State.Inv (s : State) : Prop where
  memory : Memory.wf s.config s.mem = true
  pc     : s.pc.toNat ≤ 0x10FE
  stack  : ∀ k : Fin 16, s.stack[k].toNat ≤ 4096

/-! ### The end of a run (R257) -/

/-- The run has ended normally: the next instruction is a jump to its own address. -/
def State.endedNormally (s : State) : Prop := s.fetch = .ok (0x1000#16 ||| s.pc)

/-- `n` STEPs from a state all return `Ok`. -/
def safeFor : Nat → State → Prop
  | 0, _ => True
  | n + 1, s => ∃ t, step s = .next t ∧ safeFor n t

/-! ### Frames: two states that differ in the named parts only -/

/-- At most the registers differ. -/
def State.onlyV (s t : State) : Prop := t = { s with v := t.v }

/-- At most the registers and the generator differ. -/
def State.onlyVRng (s t : State) : Prop := t = { s with v := t.v, rng := t.rng }

/-- At most memory differs. -/
def State.onlyMem (s t : State) : Prop := t = { s with mem := t.mem }

/-- Every byte of memory outside the `n` bytes from `a` reads alike. -/
def State.memOutside (s t : State) (a n : Nat) : Prop :=
  ∀ b, b < a ∨ a + n ≤ b → t.readByte b = s.readByte b

/-! ### Many pushes and pops (40_flow.md R101) -/

/-- Push the words of a list in order. -/
def pushAll : List Word → State → Except ErrorKind State
  | [], s => .ok s
  | w :: rest, s =>
    match s.push w with
    | .ok t => pushAll rest t
    | .error e => .error e

/-- Pop `n` times: the words in the order they come out, and the state after. -/
def popAll : Nat → State → Except ErrorKind (List Word × State)
  | 0, s => .ok ([], s)
  | n + 1, s =>
    match s.pop with
    | .error e => .error e
    | .ok (w, t) =>
      match popAll n t with
      | .error e => .error e
      | .ok (ws, u) => .ok (w :: ws, u)

/-! ### What a sprite covers (45_display.md R160, R163) -/

/-- Pixel `(px, py)` lies under a 1 bit of a sprite whose top left corner is `(x0, y)`. -/
def spriteLit (x0 y : Nat) (rows : List Byte) (px py : Nat) : Bool :=
  decide (x0 ≤ px ∧ px < x0 + 8 ∧ y ≤ py ∧ py < y + rows.length) && spriteBit (rows.getD (py - y) 0) (px - x0)

/-- Pixel `(px, py)` lies under a 1 bit of the sprite that Dxyn draws in state `s`: columns from `V[x] mod 64`, rows from
`V[y]` as it is, the row bytes at `I` (45_display.md R160, R163, R166). -/
def State.spriteCovers (s : State) (x y : Reg) (n : Nibble) (px py : Nat) : Bool :=
  let x0 := (s.getV x).toNat % 64
  let y0 := (s.getV y).toNat
  decide (x0 ≤ px ∧ px < x0 + 8 ∧ y0 ≤ py ∧ py < y0 + n.toNat) &&
    (s.readByte (s.i.toNat + (py - y0))).getLsbD (7 - (px - x0))

/-! ### What a program can see (R37) -/

/-- The two states differ at most in what no program ever sees: `ST`, `redraw` and the stack entries at or above `sp` (R28, R37). -/
structure SeenAlike (s t : State) : Prop where
  v        : s.v = t.v
  i        : s.i = t.i
  pc       : s.pc = t.pc
  sp       : s.sp = t.sp
  stack    : ∀ k : Fin 16, k.val < s.sp.val → s.stack[k] = t.stack[k]
  dt       : s.dt = t.dt
  keys     : s.keys = t.keys
  fb       : s.fb = t.fb
  rng      : s.rng = t.rng
  mem      : s.mem = t.mem
  shiftSrc : s.shiftSrc = t.shiftSrc
  config   : s.config = t.config

end Sys2Proof.Machine
end

