-- ==== Sys2Proof/Certificates/Slice0/Obligations.lean ====
section
/-! DEFINITION. The statements for the provers. Each docstring names the rules of spec/ it formalises; a clause that rests on a
decision the spec marks as its own, or on a choice of the model, says so (D<n> of 92_eei_decisions.md, log <n> of
notes/assumptions/). -/

open Sys2Proof Sys2Proof.Machine

/-! ### Encoding -/

/-- Decoding the word, or the bytes, of any well-formed instruction gives that instruction with every operand
(30_encoding.md R73, R74, R75; byte order D1, log 6). -/
def Obligations.DecodeOfEncodeIsTheInstruction : Prop :=
  ∀ (i : Instr) (rest : List Byte), i.wellFormed = true →
    decode (encode i) = .ok i ∧ decodeBytes (encodeBytes i ++ rest) = .ok (i, rest)

/-- What a word decodes to is well-formed and encodes to that very word: no bit is ignored and no two words share a
meaning (30_encoding.md R74, R75). -/
def Obligations.EncodeOfDecodeIsTheWord : Prop :=
  ∀ (w : Word) (i : Instr), decode w = .ok i → i.wellFormed = true ∧ encode i = w

/-- The words the decoder rejects are exactly those of 30_encoding.md R78 (exactness of 5xy0 and 9xy0: D25, log 15). -/
def Obligations.IllegalWordsAreExactlyThese : Prop :=
  ∀ w : Word, decode w = .error (.illegalInstruction w) ↔
    (fieldA w = 0x5#4 ∧ fieldN w ≠ 0x0#4) ∨
    (fieldA w = 0x8#4 ∧ fieldN w ∈ [0x8#4, 0x9#4, 0xA#4, 0xB#4, 0xC#4, 0xD#4, 0xF#4]) ∨
    (fieldA w = 0x9#4 ∧ fieldN w ≠ 0x0#4) ∨
    (fieldA w = 0xE#4 ∧ fieldNN w ∉ [0x9E#8, 0xA1#8]) ∨
    (fieldA w = 0xF#4 ∧
      fieldNN w ∉ [0x07#8, 0x0A#8, 0x15#8, 0x18#8, 0x1E#8, 0x29#8, 0x33#8, 0x55#8, 0x65#8])

/-- The field-by-field decoder of R75 and the mask and match table of R74 agree on every word, the table read from the top as
R84 says. -/
def Obligations.DecoderAgreesWithOpcodeTable : Prop :=
  ∀ w : Word, (decode? w).map Instr.row = tableRow? w

/-- A few words written out from the encodings of R74 decode to the instruction they stand for. -/
def Obligations.SampleWordsDecode : Prop :=
  decode 0x00E0#16 = .ok .cls ∧ decode 0x00EE#16 = .ok .ret ∧ decode 0x00E1#16 = .ok (.sys 0x0E1#12) ∧
  decode 0x22F6#16 = .ok (.call 0x2F6#12) ∧ decode 0x8AB4#16 = .ok (.addReg 10 11) ∧
  decode 0xD01F#16 = .ok (.drw 0 1 0xF#4) ∧ decode 0xE5A1#16 = .ok (.sknp 5) ∧ decode 0xFC65#16 = .ok (.load 12)

/-! ### The step -/

/-- 30_encoding.md R72, the instruction cycle: with fewer than two bytes left the step stops with nothing changed; else the two
bytes at pc are the word, first byte high (the spec's decision D1, log 6), pc advances by 2, an unmatched word is an illegal
instruction, and a matched one runs its handler on the advanced state, with no advance after it. -/
def Obligations.StepIsTheInstructionCycle : Prop :=
  ∀ s : State,
    (4096 < s.pc.toNat + 2 → step s = .fault (.illegalAddress s)) ∧
    ∀ b0 b1 : Byte, s.memRead s.pc.toNat 2 = .ok [b0, b1] →
      (∀ e, decode (b0 ++ b1 : Word) = .error e →
        step s = .fault (.illegalInstruction (b0 ++ b1 : Word) { s with pc := s.pc + 2 })) ∧
      ∀ i, decode (b0 ++ b1 : Word) = .ok i → step s = exec i { s with pc := s.pc + 2 }

/-- 20_memory.md R55: the fetch is MemRead(pc, 2) and nothing more; it succeeds for pc in 0..4094; from 4095 on the STEP fails
with illegal-address and not even pc changes. That the byte at pc is the high one of the word is the spec's decision D1
(log 6). -/
def Obligations.FetchIsMemReadOfTwoBytes : Prop :=
  ∀ s : State,
    (s.pc.toNat ≤ 4094 →
      ∃ b0 b1, s.memRead s.pc.toNat 2 = .ok [b0, b1] ∧ s.fetch = .ok (wordOfBytes b0 b1)) ∧
    (4095 ≤ s.pc.toNat →
      s.memRead s.pc.toNat 2 = .error .illegalAddress ∧ step s = .fault (.illegalAddress s))

/-- The byte at pc is the high byte of the fetched word (20_memory.md R56, which is the spec's decision D1; log 6). -/
def Obligations.FetchedWordIsBigEndian : Prop :=
  ∀ (s : State) (w : Word), s.fetch = .ok w →
    w.toNat = 256 * (s.readByte s.pc.toNat).toNat + (s.readByte (s.pc.toNat + 1)).toNat

/-- An instruction placed by `withFetchWord` is the one the next step runs, and placing it changes its two bytes only. The
placing is the model's own, standing for LOAD_ROM (log 3). -/
def Obligations.PlacedWordIsWhatStepRuns : Prop :=
  ∀ (s : State) (w : Nat) (i : Instr), Memory.wf s.config s.mem = true → s.pc.toNat ≤ 4094 →
    decodeTableWord 16 w = some i →
    step (s.withFetchWord 16 w) = exec i (s.withFetchWord 16 w).advance ∧
      s.onlyMem (s.withFetchWord 16 w) ∧ s.memOutside (s.withFetchWord 16 w) s.pc.toNat 2

/-- 60_exceptions.md R213: a register index outside 0..15 is the contract's IllegalRegister, and no STEP ever returns it. -/
def Obligations.StepNeverRaisesIllegalRegister : Prop :=
  (∀ index, registerPort index = .error .illegalRegister ↔ 15 < index) ∧
  ∀ (s t : State), step s ≠ .fault (.illegalRegister t)

/-- No step is refused: every instruction of the table has a meaning (93_implementation_defined.md, "No behaviour of this
hardware is `stuck`"). -/
def Obligations.StepIsNeverRefused : Prop :=
  ∀ (s : State) (r : Refusal), step s ≠ .refused r

/-- Errors are precise: a fetch error leaves the state as it was, any other error only the pc advanced (60_exceptions.md R219,
00_scope.md R10; no partial effects is the spec's decision D10, log 9). -/
def Obligations.ErrorsArePrecise : Prop :=
  ∀ (s : State) (f : Fault), step s = .fault f →
    (4095 ≤ s.pc.toNat ∧ f = .illegalAddress s) ∨
    (s.pc.toNat ≤ 4094 ∧ f.after = { s with pc := s.pc + 2 })

/-- Which handler raises which error, exactly when, and in which state; all 27 others raise none (60_exceptions.md R217). -/
def Obligations.HandlersRaiseExactlyThese : Prop :=
  ∀ (s : State) (f : Fault),
    (exec .ret s = .fault f ↔ s.sp.val = 0 ∧ f = .stackUnderflow s) ∧
    (∀ nnn, exec (.call nnn) s = .fault f ↔ s.sp.val = 16 ∧ f = .stackOverflow s) ∧
    (∀ x y n, exec (.drw x y n) s = .fault f ↔ 4096 < s.i.toNat + n.toNat ∧ f = .illegalAddress s) ∧
    (∀ x, exec (.ldB x) s = .fault f ↔ 4096 < s.i.toNat + 3 ∧ f = .illegalAddress s) ∧
    (∀ x, exec (.store x) s = .fault f ↔ 4096 < s.i.toNat + x.val + 1 ∧ f = .illegalAddress s) ∧
    (∀ x, exec (.load x) s = .fault f ↔ 4096 < s.i.toNat + x.val + 1 ∧ f = .illegalAddress s) ∧
    (∀ x, exec (.skp x) s = .fault f ↔ 15 < (s.getV x).toNat ∧ f = .illegalKey s) ∧
    (∀ x, exec (.sknp x) s = .fault f ↔ 15 < (s.getV x).toNat ∧ f = .illegalKey s) ∧
    ∀ i : Instr, exec i s = .fault f →
      i = .ret ∨ (∃ nnn, i = .call nnn) ∨ (∃ x y n, i = .drw x y n) ∨ (∃ x, i = .ldB x) ∨ (∃ x, i = .store x) ∨
        (∃ x, i = .load x) ∨ (∃ x, i = .skp x) ∨ ∃ x, i = .sknp x

/-- The host may go on after an error: where the fetch fails every further STEP returns the same error and changes nothing;
after any other error the machine stands at the next instruction (60_exceptions.md R219; nothing latched is the spec's decision
D19, log 2). -/
def Obligations.StepCommandGoesOnAfterAnError : Prop :=
  ∀ s : State,
    (4095 ≤ s.pc.toNat → ∀ n, commands (List.replicate n .step) s = (s, List.replicate n (.err .illegalAddress))) ∧
    (s.pc.toNat ≤ 4094 → ∀ e, (command .step s).2 = .err e → (command .step s).1 = { s with pc := s.pc + 2 })

/-! ### The invariant -/

/-- The state after RESET meets the invariant, whatever the OPEN parameters (10_state.md R38). -/
def Obligations.InvariantHoldsAfterReset : Prop :=
  (∀ c : Config, (State.resetWith c).Inv) ∧ State.reset.Inv

/-- Every STEP that returns Ok keeps the invariant: memory canonical, pc at most 0x10FE (10_state.md R24), stack entries at
most 4096 (40_flow.md R102). -/
def Obligations.StepKeepsTheInvariant : Prop :=
  ∀ s t : State, s.Inv → step s = .next t → t.Inv

/-- Every command of the host keeps the invariant, an error included, and never changes the OPEN parameters
(49_host_interface.md R190 to R201; 10_state.md R24). -/
def Obligations.EveryCommandKeepsTheInvariant : Prop :=
  ∀ (c : Command) (s : State), s.Inv → (command c s).1.Inv ∧ (command c s).1.config = s.config

/-- What RESET leaves, from any state: the values of 10_state.md R38 (the spec's decisions D9, D18 and, for the font, D2; logs 4
and 5) and the OPEN parameters of the machine (log 1). -/
def Obligations.ResetLeavesTheStateOfTheSummary : Prop :=
  ∀ s : State, ∃ t, command .reset s = (t, .done) ∧ t = State.resetWith s.config ∧
    (∀ r, t.getV r = 0) ∧ t.i = 0 ∧ t.pc = 0x0200#16 ∧ t.sp = 0 ∧ (∀ k : Fin 16, t.stack[k] = 0) ∧
    t.dt = 0 ∧ t.st = 0 ∧ (∀ k : Fin 16, t.keys[k] = false) ∧ (∀ k : Fin 256, t.fb[k] = 0) ∧ t.redraw = false ∧
    t.rng = s.config.rngSeed ∧ t.shiftSrc = s.config.shiftSrc ∧ t.config = s.config ∧
    ∀ a, a < 4096 → t.readByte a =
      if s.config.fontBase.val ≤ a ∧ a < s.config.fontBase.val + 80 then font.getD (a - s.config.fontBase.val) 0 else 0

/-! ### Control transfer -/

/-- 40_flow.md R103: every 0nnn word but 00E0 and 00EE is the no-op: it runs, and the whole STEP changes pc only, by 2.
That 0x0000 is among them is the spec's decision D25 (R79; log 15). -/
def Obligations.SysIsANoOp : Prop :=
  (∀ nnn : Addr, nnn ≠ 0x0E0#12 → nnn ≠ 0x0EE#12 → decode (0x0#4 ++ nnn : Word) = .ok (.sys nnn)) ∧
  (∀ (nnn : Addr) (s : State), exec (.sys nnn) s = .next s) ∧
  ∀ (nnn : Addr) (s : State), s.fetch = .ok (0x0#4 ++ nnn : Word) → nnn ≠ 0x0E0#12 → nnn ≠ 0x0EE#12 →
    step s = .next { s with pc := s.pc + 2 }

/-- 40_flow.md R104: 1nnn sets pc to nnn and changes nothing else; the target is not checked, so nnn = 0xFFF makes the next
fetch fail; a jump standing at its own target is an endless loop. -/
def Obligations.JumpSetsPc : Prop :=
  (∀ nnn : Addr, decode (0x1#4 ++ nnn : Word) = .ok (.jp nnn)) ∧
  (∀ (nnn : Addr) (s : State), ∃ t, exec (.jp nnn) s = .next t ∧ t.pc.toNat = nnn.toNat ∧ t = { s with pc := t.pc }) ∧
  (∀ s t : State, exec (.jp 0xFFF#12) s = .next t → step t = .fault (.illegalAddress t)) ∧
  ∀ (nnn : Addr) (s : State), s.fetch = .ok (0x1#4 ++ nnn : Word) → s.pc.toNat = nnn.toNat → step s = .next s

/-- 40_flow.md R106: Bnnn sets pc to nnn + V0, not reduced to 12 bits, and changes nothing else; from a result of 4095 or more the
next fetch fails. -/
def Obligations.JumpWithOffsetAddsV0 : Prop :=
  (∀ nnn : Addr, decode (0xB#4 ++ nnn : Word) = .ok (.jpV0 nnn)) ∧
  ∀ (nnn : Addr) (s : State), ∃ t, exec (.jpV0 nnn) s = .next t ∧
    t.pc.toNat = nnn.toNat + (s.getV 0).toNat ∧ t = { s with pc := t.pc } ∧
    (4095 ≤ nnn.toNat + (s.getV 0).toNat → step t = .fault (.illegalAddress t))

/-- 2nnn pushes the advanced pc and jumps; on a full stack it raises StackOverflow with nothing pushed and no jump
(40_flow.md R105, over R100, whose check-first contract is the spec's decision D7; log 8). -/
def Obligations.CallPushesAndJumps : Prop :=
  (∀ nnn : Addr, decode (0x2#4 ++ nnn : Word) = .ok (.call nnn)) ∧
  ∀ (nnn : Addr) (s : State),
    (∀ k : Fin 16, s.sp.val = k.val → ∃ t, exec (.call nnn) s = .next t ∧ t.pc.toNat = nnn.toNat ∧
      t.sp.val = s.sp.val + 1 ∧ t.stack[k] = s.pc ∧ (∀ j : Fin 16, j ≠ k → t.stack[j] = s.stack[j]) ∧
      t = { s with pc := t.pc, sp := t.sp, stack := t.stack }) ∧
    (s.sp.val = 16 → exec (.call nnn) s = .fault (.stackOverflow s))

/-- 40_flow.md R102: 00EE pops the top entry into pc as it is, at most 4096 where the invariant holds, and from 4095 or more the
next fetch fails; on an empty stack it raises StackUnderflow and nothing changes. -/
def Obligations.ReturnPopsIntoPc : Prop :=
  decode 0x00EE#16 = .ok .ret ∧
  ∀ s : State,
    (∀ k : Fin 16, s.sp.val = k.val + 1 → ∃ t, exec .ret s = .next t ∧ t.pc = s.stack[k] ∧ t.sp.val = k.val ∧
      t = { s with pc := t.pc, sp := t.sp } ∧ (s.Inv → t.pc.toNat ≤ 4096) ∧
      (4095 ≤ s.stack[k].toNat → step t = .fault (.illegalAddress t))) ∧
    (s.sp.val = 0 → exec .ret s = .fault (.stackUnderflow s))

/-- A RET run with the stack a CALL left resumes at the instruction after the CALL, with the stack pointer as before it
(40_flow.md R105, R102). -/
def Obligations.ReturnResumesAfterCall : Prop :=
  ∀ (nnn : Addr) (s t u : State), exec (.call nnn) s = .next t → u.stack = t.stack → u.sp = t.sp →
    ∃ w, exec .ret u = .next w ∧ w.pc = s.pc ∧ w.sp = s.sp

/-- N pushes that fit, then N pops, give the words back in reverse order and restore the pointer; N pushes that do not fit raise
StackOverflow (40_flow.md R100, R101; capacity 16 is the spec's decision D7, log 8). -/
def Obligations.StackIsLastInFirstOut : Prop :=
  ∀ (ws : List Word) (s : State),
    (s.sp.val + ws.length ≤ 16 → ∃ t u, pushAll ws s = .ok t ∧ t.sp.val = s.sp.val + ws.length ∧
      popAll ws.length t = .ok (ws.reverse, u) ∧ u.sp = s.sp ∧ u = { s with stack := u.stack }) ∧
    (16 < s.sp.val + ws.length → pushAll ws s = .error .stackOverflow)

/-! ### Skips -/

/-- 41_skip.md R110 and R111: 3xnn skips on equal, 4xnn on different; only pc changes. -/
def Obligations.SkipsOnImmediate : Prop :=
  (∀ (x : Reg) (nn : Byte), decode (0x3#4 ++ BitVec.ofFin (w := 4) x ++ nn : Word) = .ok (.seImm x nn) ∧
    decode (0x4#4 ++ BitVec.ofFin (w := 4) x ++ nn : Word) = .ok (.sneImm x nn)) ∧
  ∀ (x : Reg) (nn : Byte) (s : State),
    exec (.seImm x nn) s = .next { s with pc := if s.getV x = nn then s.pc + 2 else s.pc } ∧
    exec (.sneImm x nn) s = .next { s with pc := if s.getV x = nn then s.pc else s.pc + 2 }

/-- 5xy0 skips on equal registers, 9xy0 on different ones; only pc changes; with any other last nibble the word is no
instruction (41_skip.md R112, R113; the last clause is the spec's decision D25, log 15). -/
def Obligations.SkipsOnRegisters : Prop :=
  (∀ x y : Reg, decode (0x5#4 ++ BitVec.ofFin (w := 4) x ++ BitVec.ofFin (w := 4) y ++ 0x0#4 : Word) = .ok (.seReg x y) ∧
    decode (0x9#4 ++ BitVec.ofFin (w := 4) x ++ BitVec.ofFin (w := 4) y ++ 0x0#4 : Word) = .ok (.sneReg x y)) ∧
  (∀ (x y : Reg) (n : Nibble) (a : BitVec 4) (i : Instr), n ≠ 0x0#4 → a = 0x5#4 ∨ a = 0x9#4 →
    decode (a ++ BitVec.ofFin (w := 4) x ++ BitVec.ofFin (w := 4) y ++ n : Word) ≠ .ok i) ∧
  ∀ (x y : Reg) (s : State),
    exec (.seReg x y) s = .next { s with pc := if s.getV x = s.getV y then s.pc + 2 else s.pc } ∧
    exec (.sneReg x y) s = .next { s with pc := if s.getV x = s.getV y then s.pc else s.pc + 2 }

/-! ### Register load and ALU -/

/-- 42_alu.md R120 and R122: 6xnn loads the immediate, 8xy0 the other register; nothing else changes. -/
def Obligations.LoadAndMoveWriteTheDestination : Prop :=
  (∀ (x : Reg) (nn : Byte), decode (0x6#4 ++ BitVec.ofFin (w := 4) x ++ nn : Word) = .ok (.ldImm x nn)) ∧
  (∀ x y : Reg, decode (0x8#4 ++ BitVec.ofFin (w := 4) x ++ BitVec.ofFin (w := 4) y ++ 0x0#4 : Word) = .ok (.ldReg x y)) ∧
  (∀ (x : Reg) (nn : Byte) (s : State), ∃ t, exec (.ldImm x nn) s = .next t ∧ t.getV x = nn ∧
    (∀ r, r ≠ x → t.getV r = s.getV r) ∧ s.onlyV t) ∧
  ∀ (x y : Reg) (s : State), ∃ t, exec (.ldReg x y) s = .next t ∧ t.getV x = s.getV y ∧
    (∀ r, r ≠ x → t.getV r = s.getV r) ∧ s.onlyV t

/-- 42_alu.md R121: 7xnn adds modulo 256 and never writes VF as a flag, whatever the sum. -/
def Obligations.AddImmediateWrapsAndSetsNoFlag : Prop :=
  (∀ (x : Reg) (nn : Byte), decode (0x7#4 ++ BitVec.ofFin (w := 4) x ++ nn : Word) = .ok (.addImm x nn)) ∧
  ∀ (x : Reg) (nn : Byte) (s : State), ∃ t, exec (.addImm x nn) s = .next t ∧
    (t.getV x).toNat = ((s.getV x).toNat + nn.toNat) % 256 ∧ (∀ r, r ≠ x → t.getV r = s.getV r) ∧ s.onlyV t

/-- 8xy1, 8xy2, 8xy3 combine bit by bit; VF is not reset (42_alu.md R123, R124, R125; no unlisted effect on VF is the spec's
decision D14, log 12). -/
def Obligations.LogicIsBitwiseAndSetsNoFlag : Prop :=
  ∀ (x y : Reg) (s : State),
    (∃ t, exec (.orReg x y) s = .next t ∧
      (∀ k, (t.getV x).getLsbD k = ((s.getV x).getLsbD k || (s.getV y).getLsbD k)) ∧
      (∀ r, r ≠ x → t.getV r = s.getV r) ∧ s.onlyV t) ∧
    (∃ t, exec (.andReg x y) s = .next t ∧
      (∀ k, (t.getV x).getLsbD k = ((s.getV x).getLsbD k && (s.getV y).getLsbD k)) ∧
      (∀ r, r ≠ x → t.getV r = s.getV r) ∧ s.onlyV t) ∧
    (∃ t, exec (.xorReg x y) s = .next t ∧
      (∀ k, (t.getV x).getLsbD k = ((s.getV x).getLsbD k ^^ (s.getV y).getLsbD k)) ∧
      (∀ r, r ≠ x → t.getV r = s.getV r) ∧ s.onlyV t)

/-- 8xy4, 8xy5, 8xy7: result modulo 256 in Vx, carry or borrow (1 when a borrow happens) in VF; with x = 15 the flag wins
(42_alu.md R126, R127, R128; the order of the two writes is R26, the spec's decision D8, log 7). -/
def Obligations.AddAndSubtractSetResultThenFlag : Prop :=
  ∀ (x y : Reg) (s : State),
    (∃ t, exec (.addReg x y) s = .next t ∧
      (x ≠ VF → (t.getV x).toNat = ((s.getV x).toNat + (s.getV y).toNat) % 256) ∧
      (t.getV VF).toNat = (if 255 < (s.getV x).toNat + (s.getV y).toNat then 1 else 0) ∧
      (∀ r, r ≠ x → r ≠ VF → t.getV r = s.getV r) ∧ s.onlyV t) ∧
    (∃ t, exec (.subReg x y) s = .next t ∧
      (x ≠ VF → (t.getV x).toNat = ((s.getV x).toNat + 256 - (s.getV y).toNat) % 256) ∧
      (t.getV VF).toNat = (if (s.getV x).toNat < (s.getV y).toNat then 1 else 0) ∧
      (∀ r, r ≠ x → r ≠ VF → t.getV r = s.getV r) ∧ s.onlyV t) ∧
    (∃ t, exec (.subnReg x y) s = .next t ∧
      (x ≠ VF → (t.getV x).toNat = ((s.getV y).toNat + 256 - (s.getV x).toNat) % 256) ∧
      (t.getV VF).toNat = (if (s.getV y).toNat < (s.getV x).toNat then 1 else 0) ∧
      (∀ r, r ≠ x → r ≠ VF → t.getV r = s.getV r) ∧ s.onlyV t)

/-- 8xy6, 8xyE: the source register is Vy or Vx by the toggle, the result goes to Vx, the bit shifted out to VF; with x = 15
the result wins (42_alu.md R129, R130, R131; source D20, log 18; order of the writes R26, D8, log 7). -/
def Obligations.ShiftsUseTheToggledSource : Prop :=
  ∀ (x y : Reg) (s : State) (src : Byte),
    (s.shiftSrc = .vy → src = s.getV y) → (s.shiftSrc = .vx → src = s.getV x) →
    (∃ t, exec (.shr x y) s = .next t ∧ (t.getV x).toNat = src.toNat / 2 ∧
      (x ≠ VF → (t.getV VF).toNat = src.toNat % 2) ∧ (∀ r, r ≠ x → r ≠ VF → t.getV r = s.getV r) ∧ s.onlyV t) ∧
    (∃ t, exec (.shl x y) s = .next t ∧ (t.getV x).toNat = (2 * src.toNat) % 256 ∧
      (x ≠ VF → (t.getV VF).toNat = src.toNat / 128) ∧ (∀ r, r ≠ x → r ≠ VF → t.getV r = s.getV r) ∧ s.onlyV t)

/-! ### Index register and memory transfer -/

/-- 43_index_memory.md R140 and R141: Annn loads I, Fx1E adds Vx modulo 65536; nothing else changes.
That Fx1E leaves VF is the spec's decision D14 (log 12). -/
def Obligations.IndexLoadAndAdd : Prop :=
  (∀ nnn : Addr, decode (0xA#4 ++ nnn : Word) = .ok (.ldI nnn)) ∧
  (∀ x : Reg, decode (0xF#4 ++ BitVec.ofFin (w := 4) x ++ 0x1E#8 : Word) = .ok (.addI x)) ∧
  (∀ (nnn : Addr) (s : State), ∃ t, exec (.ldI nnn) s = .next t ∧ t.i.toNat = nnn.toNat ∧ t = { s with i := t.i }) ∧
  ∀ (x : Reg) (s : State), ∃ t, exec (.addI x) s = .next t ∧
    t.i.toNat = (s.i.toNat + (s.getV x).toNat) % 65536 ∧ t = { s with i := t.i }

/-- Fx29 sets I to FONT_BASE + Vx, unscaled, never wrapping, for every FONT_BASE; nothing else changes (43_index_memory.md R142;
FONT_STRIDE = 1 is the spec's decision D4, log 10; FONT_BASE is OPEN, log 1). -/
def Obligations.FontAddressIsUnscaled : Prop :=
  ∀ (x : Reg) (s : State), ∃ t, exec (.ldF x) s = .next t ∧
    t.i.toNat = s.config.fontBase.val + (s.getV x).toNat ∧ t = { s with i := t.i }

/-- Fx33 stores three bytes at I that are the decimal digits of Vx, for every value 0..255, and changes nothing else; past the end
of memory it raises IllegalAddress with nothing stored (43_index_memory.md R143; D15, log 11; no partial write D10, log 9). -/
def Obligations.DecimalDigitsAreStored : Prop :=
  ∀ (x : Reg) (s : State), Memory.wf s.config s.mem = true →
    (s.i.toNat + 3 ≤ 4096 → ∃ t, exec (.ldB x) s = .next t ∧
      100 * (t.readByte s.i.toNat).toNat + 10 * (t.readByte (s.i.toNat + 1)).toNat + (t.readByte (s.i.toNat + 2)).toNat =
        (s.getV x).toNat ∧
      (t.readByte s.i.toNat).toNat ≤ 2 ∧ (t.readByte (s.i.toNat + 1)).toNat ≤ 9 ∧ (t.readByte (s.i.toNat + 2)).toNat ≤ 9 ∧
      s.memOutside t s.i.toNat 3 ∧ s.onlyMem t) ∧
    (4096 < s.i.toNat + 3 → exec (.ldB x) s = .fault (.illegalAddress s))

/-- Fx55 stores V0..Vx at I, I+1, ..., changes no other byte and no register, I included; past the end of memory it raises
IllegalAddress with nothing stored (43_index_memory.md R144; I unchanged D13, log 12; no partial write D10, log 9). -/
def Obligations.StoreWritesV0ToVx : Prop :=
  ∀ (x : Reg) (s : State), Memory.wf s.config s.mem = true →
    (s.i.toNat + x.val + 1 ≤ 4096 → ∃ t, exec (.store x) s = .next t ∧
      (∀ r : Reg, r.val ≤ x.val → t.readByte (s.i.toNat + r.val) = s.getV r) ∧
      s.memOutside t s.i.toNat (x.val + 1) ∧ s.onlyMem t) ∧
    (4096 < s.i.toNat + x.val + 1 → exec (.store x) s = .fault (.illegalAddress s))

/-- Fx65 loads V0..Vx from I, I+1, ..., and changes nothing else, I and memory included; past the end of memory it raises
IllegalAddress and no register changes (43_index_memory.md R145; I unchanged D13, log 12; D10, log 9). -/
def Obligations.LoadReadsV0ToVx : Prop :=
  ∀ (x : Reg) (s : State),
    (s.i.toNat + x.val + 1 ≤ 4096 → ∃ t, exec (.load x) s = .next t ∧
      (∀ r : Reg, r.val ≤ x.val → t.getV r = s.readByte (s.i.toNat + r.val)) ∧
      (∀ r : Reg, x.val < r.val → t.getV r = s.getV r) ∧ s.onlyV t) ∧
    (4096 < s.i.toNat + x.val + 1 → exec (.load x) s = .fault (.illegalAddress s))

/-- Registers stored by Fx55 come back by Fx65 run later with the same I and memory, whatever the registers hold by then
(43_index_memory.md R144, R145). -/
def Obligations.LoadRestoresWhatStoreSaved : Prop :=
  ∀ (x : Reg) (s t u : State), Memory.wf s.config s.mem = true → exec (.store x) s = .next t →
    u.mem = t.mem → u.config = t.config → u.i = t.i →
    ∃ w, exec (.load x) u = .next w ∧ ∀ r : Reg, r.val ≤ x.val → w.getV r = s.getV r

/-- A store into the word about to be fetched is seen by that fetch: self-modifying code is exact (20_memory.md R65; byte order
D1, log 6). -/
def Obligations.StoreIsSeenByTheNextFetch : Prop :=
  ∀ (x r0 r1 : Reg) (s t : State), Memory.wf s.config s.mem = true → exec (.store x) s = .next t →
    r1.val = r0.val + 1 → r1.val ≤ x.val → s.pc.toNat = s.i.toNat + r0.val →
    t.fetch = .ok (s.getV r0 ++ s.getV r1 : Word)

/-- 20_memory.md R51, the bounds rule: an access of n bytes at addr is legal when addr + n <= 4096 and raises IllegalAddress
otherwise, over the unbounded integers, for reads and writes, n = 0 included. -/
def Obligations.AccessIsLegalExactlyInBounds : Prop :=
  ∀ (s : State) (a n : Nat) (bytes : List Byte), bytes.length = n →
    (a + n ≤ 4096 → (∃ b, s.memRead a n = .ok b ∧ b.length = n) ∧ ∃ t, s.memWrite a bytes = .ok t) ∧
    (4096 < a + n → s.memRead a n = .error .illegalAddress ∧ s.memWrite a bytes = .error .illegalAddress)

/-! ### The generator -/

/-- The generator's transform in numbers: left 13, right 17, left 5, each XORed in, the left shifts modulo 2^32
(44_random.md R150; unsigned 32-bit word is the spec's decision D6, log 14). -/
def Obligations.GeneratorIsXorshift : Prop :=
  ∀ r : BitVec 32,
    let s0 := r.toNat
    let s1 := s0 ^^^ (s0 * 2 ^ 13) % 2 ^ 32
    let s2 := s1 ^^^ (s1 / 2 ^ 17)
    let s3 := s2 ^^^ (s2 * 2 ^ 5) % 2 ^ 32
    (xorshift r).toNat = s3

/-- 44_random.md R151: Cxnn advances the generator exactly once and loads its low byte masked by nn; a mask of 0 loads 0
whatever the state; nothing else changes; no other instruction advances the generator. -/
def Obligations.RandomByteIsMasked : Prop :=
  (∀ (x : Reg) (nn : Byte), decode (0xC#4 ++ BitVec.ofFin (w := 4) x ++ nn : Word) = .ok (.rnd x nn)) ∧
  (∀ (x : Reg) (nn : Byte) (s : State), ∃ t, exec (.rnd x nn) s = .next t ∧ t.rng = xorshift s.rng ∧
    (∀ k, (t.getV x).getLsbD k = ((xorshift s.rng).getLsbD k && nn.getLsbD k)) ∧ (nn = 0 → t.getV x = 0) ∧
    (∀ r, r ≠ x → t.getV r = s.getV r) ∧ s.onlyVRng t) ∧
  ∀ (i : Instr) (s t : State), (∀ x nn, i ≠ .rnd x nn) → exec i s = .next t → t.rng = s.rng

/-- The generator permutes its states, and 0 is its fixed point that no other state reaches (44_random.md R152). -/
def Obligations.GeneratorPermutesItsStates : Prop :=
  Function.Injective xorshift ∧ ∀ r, xorshift r = 0 ↔ r = 0

/-! ### The display -/

/-- 45_display.md R165 and R164: 00E0 zeroes the whole framebuffer, sets redraw and changes nothing else. -/
def Obligations.ClearBlanksTheDisplay : Prop :=
  decode 0x00E0#16 = .ok .cls ∧
  ∀ s : State, ∃ t, exec .cls s = .next t ∧ (∀ k : Fin 256, t.fb[k] = 0) ∧ t.redraw = true ∧
    t = { s with fb := t.fb, redraw := t.redraw }

/-- Dxyn pixel by pixel: a pixel of the display flips exactly when it lies under a 1 bit of the sprite at I, placed at column
Vx mod 64 and row Vy, clipped at the right and bottom; VF is 1 exactly when such a pixel was lit, else 0; redraw is set; nothing
else changes; a sprite past the end of memory raises IllegalAddress with nothing drawn (45_display.md R160, R166, R167; touched
bits D11 and bit order D12, log 13; redraw D18, log 17; I kept, R67, D14, log 12; no partial draw D10, log 9). -/
def Obligations.DrawXorsTheSpriteAndReportsCollision : Prop :=
  ∀ (x y : Reg) (n : Nibble) (s : State),
    (s.i.toNat + n.toNat ≤ 4096 → ∃ t, exec (.drw x y n) s = .next t ∧
      (∀ px py, px < 64 → py < 32 → pixel t.fb px py = (pixel s.fb px py ^^ s.spriteCovers x y n px py)) ∧
      ((∃ px py, px < 64 ∧ py < 32 ∧ s.spriteCovers x y n px py = true ∧ pixel s.fb px py = true) → t.getV VF = 1) ∧
      ((¬∃ px py, px < 64 ∧ py < 32 ∧ s.spriteCovers x y n px py = true ∧ pixel s.fb px py = true) → t.getV VF = 0) ∧
      t.redraw = true ∧ (∀ r, r ≠ VF → t.getV r = s.getV r) ∧
      t = { s with v := t.v, fb := t.fb, redraw := t.redraw }) ∧
    (4096 < s.i.toNat + n.toNat → exec (.drw x y n) s = .fault (.illegalAddress s))

/-- The byte-wise blit of 45_display.md R161 and the pixel-wise one of R160 change the framebuffer identically and report the
same collision, for every position, sprite and framebuffer. -/
def Obligations.ByteWiseBlitEqualsPixelWiseBlit : Prop :=
  ∀ (x y : Byte) (rows : List Byte) (fb : Vector Byte 256), blitBytes x y rows fb = blit x y rows fb

/-- The blit's properties of 45_display.md R162, from R160: onto an empty buffer no sprite collides; the same sprite twice at the
same place restores the buffer; the second call collides exactly when the sprite touches a visible pixel that was unlit before the
first (touched: D11, log 13; R162's own words leave the last condition out, log 23), so after a first call onto an empty buffer
exactly when it touches a visible pixel. -/
def Obligations.BlitTwiceRestoresTheBuffer : Prop :=
  ∀ (x y : Byte) (rows : List Byte) (fb : Vector Byte 256),
    (blit x y rows (Vector.replicate 256 0)).hit = false ∧
    (blit x y rows (blit x y rows fb).fb).fb = fb ∧
    ((blit x y rows (blit x y rows fb).fb).hit = true ↔
      ∃ px py, px < 64 ∧ py < 32 ∧ spriteLit (x.toNat % 64) y.toNat rows px py = true ∧ pixel fb px py = false) ∧
    ((blit x y rows (blit x y rows (Vector.replicate 256 0)).fb).hit = true ↔
      ∃ px py, px < 64 ∧ py < 32 ∧ spriteLit (x.toNat % 64) y.toNat rows px py = true)

/-! ### Keypad and timers -/

/-- 46_keypad.md R170 and R171: Ex9E skips when the key Vx names is pressed, ExA1 when it is not; an index above 15 raises
IllegalKey and nothing changes. -/
def Obligations.SkipsOnKeys : Prop :=
  (∀ x : Reg, decode (0xE#4 ++ BitVec.ofFin (w := 4) x ++ 0x9E#8 : Word) = .ok (.skp x) ∧
    decode (0xE#4 ++ BitVec.ofFin (w := 4) x ++ 0xA1#8 : Word) = .ok (.sknp x)) ∧
  ∀ (x : Reg) (s : State),
    (∀ k : Fin 16, (s.getV x).toNat = k.val →
      exec (.skp x) s = .next { s with pc := if s.keys[k] = true then s.pc + 2 else s.pc } ∧
      exec (.sknp x) s = .next { s with pc := if s.keys[k] = true then s.pc else s.pc + 2 }) ∧
    (15 < (s.getV x).toNat → exec (.skp x) s = .fault (.illegalKey s) ∧ exec (.sknp x) s = .fault (.illegalKey s))

/-- Fx0A: with a key pressed the least index is loaded and nothing else changes; with none pressed the whole STEP changes nothing
at all (46_keypad.md R172; completion details are the spec's decision D27, log 16). -/
def Obligations.WaitForKeyLoadsTheLeastKey : Prop :=
  (∀ (x : Reg) (s : State) (k : Fin 16), s.keys[k] = true → (∀ j : Fin 16, j < k → s.keys[j] = false) →
    ∃ t, exec (.ldVxK x) s = .next t ∧ (t.getV x).toNat = k.val ∧ (∀ r, r ≠ x → t.getV r = s.getV r) ∧ s.onlyV t) ∧
  ∀ (x : Reg) (s : State) (w : Word), s.fetch = .ok w → decode w = .ok (.ldVxK x) →
    (∀ k : Fin 16, s.keys[k] = false) → step s = .next s

/-- 47_timers.md R180, R181, R182: Fx07 reads DT, Fx15 writes DT; Fx18 writes ST, which BEEPING follows at once
(49_host_interface.md R198); nothing else changes. -/
def Obligations.TimerInstructionsMoveTheTimers : Prop :=
  (∀ x : Reg, decode (0xF#4 ++ BitVec.ofFin (w := 4) x ++ 0x07#8 : Word) = .ok (.ldVxDT x) ∧
    decode (0xF#4 ++ BitVec.ofFin (w := 4) x ++ 0x15#8 : Word) = .ok (.ldDTVx x) ∧
    decode (0xF#4 ++ BitVec.ofFin (w := 4) x ++ 0x18#8 : Word) = .ok (.ldSTVx x)) ∧
  ∀ (x : Reg) (s : State),
    (∃ t, exec (.ldVxDT x) s = .next t ∧ t.getV x = s.dt ∧ (∀ r, r ≠ x → t.getV r = s.getV r) ∧ s.onlyV t) ∧
    exec (.ldDTVx x) s = .next { s with dt := s.getV x } ∧
    exec (.ldSTVx x) s = .next { s with st := s.getV x } ∧
    (command .beeping { s with st := s.getV x }).2 = .bit (s.getV x != 0)

/-- After n TICKs both timers are n lower, never below zero, and nothing else has changed (49_host_interface.md R194; one tick for
both is the spec's decision D21, log 18). -/
def Obligations.TicksCountBothTimersDownToZero : Prop :=
  ∀ (n : Nat) (s : State), ∃ t, (commands (List.replicate n .tick) s).1 = t ∧
    t.dt.toNat = s.dt.toNat - n ∧ t.st.toNat = s.st.toNat - n ∧ t = { s with dt := t.dt, st := t.st }

/-! ### Host commands -/

/-- 49_host_interface.md R195 to R198: SET_KEYS replaces the whole snapshot, READ_FB and BEEPING change nothing, TAKE_REDRAW
returns the flag and clears it; nothing else changes. SEED (R199) sets the generator, and seed 0, accepted by the spec's decision
D28 (log 14), freezes it at 0. -/
def Obligations.HostCommandsReadAndSet : Prop :=
  ∀ s : State,
    (∀ snapshot, command (.setKeys snapshot) s = ({ s with keys := snapshot }, .done)) ∧
    command .readFb s = (s, .frame s.fb) ∧
    command .takeRedraw s = ({ s with redraw := false }, .bit s.redraw) ∧
    command .beeping s = (s, .bit (s.st != 0)) ∧
    (∀ r, command (.seed r) s = ({ s with rng := r }, .done)) ∧
    (command (.seed 0) s).1.rand = (0, (command (.seed 0) s).1)

/-- LOAD_FB overwrites the framebuffer and leaves redraw; SET_SHIFT_SRC sets the toggle (49_host_interface.md R200, R201; D18, D20,
D32, logs 17 and 18). -/
def Obligations.LoadFbAndSetShiftSrc : Prop :=
  ∀ s : State, (∀ bytes, command (.loadFb bytes) s = ({ s with fb := bytes }, .done)) ∧
    ∀ v, command (.setShiftSrc v) s = ({ s with shiftSrc := v }, .done)

/-- LOAD_ROM copies the bytes, sets pc to the load address and changes nothing else; bytes that do not fit are not copied and pc
stays (49_host_interface.md R192; the failing case is the spec's decision D24, log 18). -/
def Obligations.LoadRomCopiesAndSetsPc : Prop :=
  ∀ (addr : Nat) (bytes : List Byte) (s : State), Memory.wf s.config s.mem = true →
    (addr + bytes.length ≤ 4096 → ∃ t, command (.loadRom addr bytes) s = (t, .ok) ∧ t.pc.toNat = addr ∧
      (∀ k, k < bytes.length → t.readByte (addr + k) = bytes.getD k 0) ∧ s.memOutside t addr bytes.length ∧
      t = { s with mem := t.mem, pc := t.pc }) ∧
    (4096 < addr + bytes.length → command (.loadRom addr bytes) s = (s, .err .illegalAddress))

/-- A machine about to jump to its own address stays exactly as it is, for ever, every STEP returning Ok
(70_reset_and_hazards.md R257; the definition of the end of a run is the spec's decision D29, log 25). -/
def Obligations.JumpToSelfChangesNothing : Prop :=
  ∀ s : State, s.endedNormally → step s = .next s ∧ ∀ n, safeFor n s

/-! ### What an instruction leaves alone -/

/-- The frame of the registers, for every instruction: a register that is not its destination (nor VF for the six instructions
that write it, nor in V0..Vx for Fx65) keeps its value (10_state.md R25; 00_scope.md R11, D14, log 12). -/
def Obligations.OtherRegistersAreKept : Prop :=
  ∀ (i : Instr) (s t : State) (r : Reg), exec i s = .next t → ¬i.mayWriteV r → t.getV r = s.getV r

/-- The frame of memory, for every instruction: every byte outside the 3 (Fx33) or x + 1 (Fx55) bytes stored at I reads as before;
every other instruction leaves every byte (20_memory.md R50, R58). -/
def Obligations.OtherBytesAreKept : Prop :=
  ∀ (i : Instr) (s t : State), Memory.wf s.config s.mem = true → exec i s = .next t →
    s.memOutside t s.i.toNat i.storeBytes

/-- The frame of all other state, pc included, for every instruction, as the "Written by" column of 10_state.md R20 has it; the
writers of pc are those of R23, after the advance of the cycle (no unlisted effect is the spec's decision D14, log 12). -/
def Obligations.SpecialStateIsWrittenOnlyByItsInstructions : Prop :=
  ∀ (i : Instr) (s t : State), exec i s = .next t →
    (t.pc ≠ s.pc → i = .ret ∨ (∃ nnn, i = .jp nnn) ∨ (∃ nnn, i = .call nnn) ∨ (∃ nnn, i = .jpV0 nnn) ∨
      (∃ x nn, i = .seImm x nn) ∨ (∃ x nn, i = .sneImm x nn) ∨ (∃ x y, i = .seReg x y) ∨ (∃ x y, i = .sneReg x y) ∨
      (∃ x, i = .skp x) ∨ (∃ x, i = .sknp x) ∨ ∃ x, i = .ldVxK x) ∧
    (t.i ≠ s.i → (∃ nnn, i = .ldI nnn) ∨ (∃ x, i = .addI x) ∨ ∃ x, i = .ldF x) ∧
    (t.stack ≠ s.stack → ∃ nnn, i = .call nnn) ∧
    (t.sp ≠ s.sp → i = .ret ∨ ∃ nnn, i = .call nnn) ∧
    (t.dt ≠ s.dt → ∃ x, i = .ldDTVx x) ∧
    (t.st ≠ s.st → ∃ x, i = .ldSTVx x) ∧
    (t.fb ≠ s.fb ∨ t.redraw ≠ s.redraw → i = .cls ∨ ∃ x y n, i = .drw x y n) ∧
    (t.rng ≠ s.rng → ∃ x nn, i = .rnd x nn) ∧
    t.keys = s.keys ∧ t.shiftSrc = s.shiftSrc ∧ t.config = s.config

/-- No program ever sees `ST`, `redraw` or the stack entries above `sp`: two states that differ only there step alike, to states
that differ only there, or stop with the same error (10_state.md R37, R28; 40_flow.md R101). -/
def Obligations.UnseenStateNeverMatters : Prop :=
  ∀ s t : State, SeenAlike s t →
    (∃ s' t', step s = .next s' ∧ step t = .next t' ∧ SeenAlike s' t') ∨
    ∃ f g, step s = .fault f ∧ step t = .fault g ∧ f.kind = g.kind ∧ SeenAlike f.after g.after
end

