-- ==== Sys2Proof/Laws/Blit.lean ====
section
/-! SUPPORT. The blit pixel by pixel: what one XOR, one touched pixel, one row and a whole sprite do to every pixel and to the
collision (45_display.md R160). -/

namespace Sys2Proof.Machine

/-! ### One byte -/

theorem fbByte_setIfInBounds (fb : Vector Byte 256) (k j : Nat) (b : Byte) :
    fbByte (fb.setIfInBounds k b) j = if k = j ∧ j < 256 then b else fbByte fb j := by
  simp only [fbByte, Vector.getElem?_setIfInBounds]
  by_cases h : k = j
  · subst h
    by_cases hk : k < 256 <;> simp [hk]
  · simp [h]

theorem Canvas.fbByte_xorByte (c : Canvas) (k j : Nat) (m : Byte) (hj : j < 256) :
    fbByte (c.xorByte k m).fb j = if k = j then fbByte c.fb j ^^^ m else fbByte c.fb j := by
  rw [Canvas.xorByte, fbByte_setIfInBounds]
  by_cases h : k = j
  · subst h; simp [hj]
  · simp [h]

theorem fbByte_eq_getElem (fb : Vector Byte 256) (k : Nat) (h : k < 256) : fbByte fb k = fb[k] := by
  simp [fbByte, h]

/-- Two framebuffers with the same pixels are equal. -/
theorem fb_ext_of_pixel {fb fb' : Vector Byte 256}
    (h : ∀ px py, px < 64 → py < 32 → pixel fb px py = pixel fb' px py) : fb = fb' := by
  refine Vector.ext fun k hk => BitVec.eq_of_getLsbD_eq fun b hb => ?_
  have := h ((k % 8) * 8 + (7 - b)) (k / 8) (by omega) (by omega)
  simp only [pixel] at this
  have e1 : k / 8 * 8 + (k % 8 * 8 + (7 - b)) / 8 = k := by omega
  have e2 : 7 - (k % 8 * 8 + (7 - b)) % 8 = b := by omega
  rw [e1, e2, fbByte_eq_getElem _ _ hk, fbByte_eq_getElem _ _ hk] at this
  exact this

/-! ### One pixel -/

theorem getLsbD_pixelMask (p j : Nat) (hp : p < 8) : (0x80#8 >>> p).getLsbD j = decide (j = 7 - p) := by
  by_cases hj : j < 8
  · have : ∀ p : Fin 8, ∀ j : Fin 8, (0x80#8 >>> p.val).getLsbD j.val = decide (j.val = 7 - p.val) := by decide
    exact this ⟨p, hp⟩ ⟨j, hj⟩
  · have hne : j ≠ 7 - p := by omega
    simp [hne, BitVec.getLsbD_of_ge _ _ (by omega : 8 ≤ j)]

theorem and_pixelMask_ne_zero (b : Byte) (p : Nat) (hp : p < 8) :
    (b &&& (0x80#8 >>> p) != 0) = b.getLsbD (7 - p) := by
  rw [Bool.eq_iff_iff]
  simp only [bne_iff_ne, ne_eq]
  constructor
  · intro h
    by_contra hb
    refine h (BitVec.eq_of_getLsbD_eq fun j hj => ?_)
    rw [BitVec.getLsbD_and, getLsbD_pixelMask _ _ hp]
    by_cases hj' : j = 7 - p
    · subst hj'; simp only [Bool.not_eq_true] at hb; simp [hb]
    · simp [hj']
  · intro hb h
    have := congrArg (fun w => w.getLsbD (7 - p)) h
    simp [getLsbD_pixelMask _ _ hp, hb] at this

/-- A touched pixel flips, every other keeps its value. -/
theorem Canvas.pixel_touch (c : Canvas) (px py qx qy : Nat) (hqx : qx < 64) (hqy : qy < 32) :
    pixel (c.touch px py).fb qx qy = (pixel c.fb qx qy ^^ decide (px = qx ∧ py = qy)) := by
  unfold Canvas.touch
  split
  · rename_i hpx
    simp only [pixel]
    rw [Canvas.fbByte_xorByte _ _ _ _ (by omega)]
    by_cases hk : py * 8 + px / 8 = qy * 8 + qx / 8
    · rw [if_pos hk, BitVec.getLsbD_xor, getLsbD_pixelMask _ _ (by omega)]
      congr 1
      rw [decide_eq_decide]
      omega
    · rw [if_neg hk]
      have : ¬(px = qx ∧ py = qy) := by rintro ⟨rfl, rfl⟩; exact hk rfl
      simp [this]
  · have : ¬(px = qx ∧ py = qy) := by omega
    simp [this]

/-- A touched pixel collides when it was lit and inside the display. -/
theorem Canvas.hit_touch (c : Canvas) (px py : Nat) :
    (c.touch px py).hit = (c.hit || (decide (px < 64) && pixel c.fb px py)) := by
  unfold Canvas.touch
  split
  · rename_i h
    simp only [Canvas.xorByte, pixel, and_pixelMask_ne_zero _ _ (Nat.mod_lt px (by decide : 0 < 8)), h, decide_true,
      Bool.true_and]
  · rename_i h
    simp [h]

/-! ### One row -/

/-- The first `m` pixels of a row drawn from the left. -/
def Canvas.drawFirst (c : Canvas) (x0 py : Nat) (row : Byte) (m : Nat) : Canvas :=
  (List.range m).foldl (fun c j => if spriteBit row j then c.touch (x0 + j) py else c) c

theorem Canvas.drawFirst_succ (c : Canvas) (x0 py : Nat) (row : Byte) (m : Nat) :
    c.drawFirst x0 py row (m + 1) =
      if spriteBit row m then (c.drawFirst x0 py row m).touch (x0 + m) py else c.drawFirst x0 py row m := by
  simp [Canvas.drawFirst, List.range_succ, List.foldl_append]

theorem Canvas.pixel_drawFirst (c : Canvas) (x0 py : Nat) (row : Byte) (m qx qy : Nat) (hqx : qx < 64)
    (hqy : qy < 32) :
    pixel (c.drawFirst x0 py row m).fb qx qy =
      (pixel c.fb qx qy ^^ (decide (py = qy ∧ x0 ≤ qx ∧ qx < x0 + m) && spriteBit row (qx - x0))) := by
  induction m with
  | zero =>
    have : ¬(py = qy ∧ x0 ≤ qx ∧ qx < x0 + 0) := by omega
    simp only [Canvas.drawFirst, List.range_zero, List.foldl_nil, this, decide_false, Bool.false_and, Bool.xor_false]
  | succ m ih =>
    rw [Canvas.drawFirst_succ]
    by_cases heq : py = qy ∧ qx = x0 + m
    · obtain ⟨rfl, rfl⟩ := heq
      have hpix : pixel (c.drawFirst x0 py row m).fb (x0 + m) py = pixel c.fb (x0 + m) py := by
        rw [ih]; simp
      split
      · rename_i hb
        rw [Canvas.pixel_touch _ _ _ _ _ hqx hqy, hpix]
        simp [hb]
      · rename_i hb
        rw [hpix]
        simp [hb]
    · have e : decide (py = qy ∧ x0 ≤ qx ∧ qx < x0 + (m + 1)) = decide (py = qy ∧ x0 ≤ qx ∧ qx < x0 + m) := by
        rw [decide_eq_decide]; omega
      rw [e, ← ih]
      split
      · rw [Canvas.pixel_touch _ _ _ _ _ hqx hqy]
        have : ¬(x0 + m = qx ∧ py = qy) := by omega
        simp [this]
      · rfl

theorem Canvas.hit_drawFirst (c : Canvas) (x0 py : Nat) (row : Byte) (m : Nat) (hpy : py < 32) :
    (c.drawFirst x0 py row m).hit = true ↔
      c.hit = true ∨ ∃ j, j < m ∧ x0 + j < 64 ∧ spriteBit row j = true ∧ pixel c.fb (x0 + j) py = true := by
  induction m with
  | zero => simp [Canvas.drawFirst]
  | succ m ih =>
    rw [Canvas.drawFirst_succ]
    have last : x0 + m < 64 → pixel (c.drawFirst x0 py row m).fb (x0 + m) py = pixel c.fb (x0 + m) py := by
      intro h
      rw [Canvas.pixel_drawFirst _ _ _ _ _ _ _ h hpy]; simp
    constructor
    · intro h
      split at h
      · rename_i hb
        rw [Canvas.hit_touch] at h
        simp only [Bool.or_eq_true, Bool.and_eq_true, decide_eq_true_eq] at h
        rcases h with h | ⟨hlt, hp⟩
        · rcases ih.1 h with h | ⟨j, hj, rest⟩
          · exact .inl h
          · exact .inr ⟨j, by omega, rest⟩
        · exact .inr ⟨m, by omega, hlt, hb, by rw [← last hlt]; exact hp⟩
      · rcases ih.1 h with h | ⟨j, hj, rest⟩
        · exact .inl h
        · exact .inr ⟨j, by omega, rest⟩
    · intro h
      have old : (c.drawFirst x0 py row m).hit = true →
          (if spriteBit row m then (c.drawFirst x0 py row m).touch (x0 + m) py else c.drawFirst x0 py row m).hit = true := by
        intro hh
        split
        · rw [Canvas.hit_touch, hh]; rfl
        · exact hh
      rcases h with h | ⟨j, hj, hlt, hb, hp⟩
      · exact old (ih.2 (.inl h))
      · by_cases hjm : j = m
        · subst hjm
          rw [if_pos hb, Canvas.hit_touch, last hlt, hp]
          simp [hlt]
        · exact old (ih.2 (.inr ⟨j, by omega, hlt, hb, hp⟩))

theorem Canvas.pixel_drawRow (c : Canvas) (x0 py : Nat) (row : Byte) (qx qy : Nat) (hqx : qx < 64)
    (hqy : qy < 32) :
    pixel (c.drawRow x0 py row).fb qx qy =
      (pixel c.fb qx qy ^^ (decide (py = qy ∧ x0 ≤ qx ∧ qx < x0 + 8) && spriteBit row (qx - x0))) :=
  Canvas.pixel_drawFirst c x0 py row 8 qx qy hqx hqy

theorem Canvas.hit_drawRow (c : Canvas) (x0 py : Nat) (row : Byte) (hpy : py < 32) :
    (c.drawRow x0 py row).hit = true ↔
      c.hit = true ∨ ∃ j, j < 8 ∧ x0 + j < 64 ∧ spriteBit row j = true ∧ pixel c.fb (x0 + j) py = true :=
  Canvas.hit_drawFirst c x0 py row 8 hpy

/-! ### A sprite -/

theorem spriteLit_nil (x0 y qx qy : Nat) : spriteLit x0 y [] qx qy = false := by
  have : ¬(x0 ≤ qx ∧ qx < x0 + 8 ∧ y ≤ qy ∧ qy < y + ([] : List Byte).length)   := by simp
  simp only [spriteLit, this, decide_false, Bool.false_and]

theorem spriteLit_cons (x0 y : Nat) (row : Byte) (rest : List Byte) (qx qy : Nat) :
    spriteLit x0 y (row :: rest) qx qy =
      if y = qy then decide (x0 ≤ qx ∧ qx < x0 + 8) && spriteBit row (qx - x0) else spriteLit x0 (y + 1) rest qx qy := by
  unfold spriteLit
  simp only [List.length_cons]
  split
  · subst y
    simp
  · have e : (x0 ≤ qx ∧ qx < x0 + 8 ∧ y ≤ qy ∧ qy < y + (rest.length + 1)) ↔
        (x0 ≤ qx ∧ qx < x0 + 8 ∧ y + 1 ≤ qy ∧ qy < y + 1 + rest.length) := by omega
    rw [decide_eq_decide.2 e]
    by_cases hq : y + 1 ≤ qy
    · have : qy - y = (qy - (y + 1)) + 1 := by omega
      rw [this, List.getD_cons_succ]
    · have : ¬(x0 ≤ qx ∧ qx < x0 + 8 ∧ y + 1 ≤ qy ∧ qy < y + 1 + rest.length) := by omega
      simp only [this, decide_false, Bool.false_and]

theorem Canvas.pixel_drawRows (c : Canvas) (x0 y : Nat) (rows : List Byte) (qx qy : Nat) (hqx : qx < 64) (hqy : qy < 32) :
    pixel (c.drawRows x0 y rows).fb qx qy = (pixel c.fb qx qy ^^ spriteLit x0 y rows qx qy) := by
  induction rows generalizing c y with
  | nil => simp [Canvas.drawRows, spriteLit_nil]
  | cons row rest ih =>
    rw [Canvas.drawRows, ih, spriteLit_cons]
    by_cases hy : y < 32
    · rw [if_pos hy, Canvas.pixel_drawRow _ _ _ _ _ _ hqx hqy]
      by_cases he : y = qy
      · subst he
        have : spriteLit x0 (y + 1) rest qx y = false := by
          have : ¬(x0 ≤ qx ∧ qx < x0 + 8 ∧ y + 1 ≤ y ∧ y < y + 1 + rest.length) := by omega
          simp only [spriteLit, this, decide_false, Bool.false_and]
        simp [this]
      · simp [he]
    · rw [if_neg hy]
      have : y ≠ qy := by omega
      simp [this]

theorem Canvas.hit_drawRows (c : Canvas) (x0 y : Nat) (rows : List Byte) :
    (c.drawRows x0 y rows).hit = true ↔
      c.hit = true ∨ ∃ qx qy, qx < 64 ∧ qy < 32 ∧ spriteLit x0 y rows qx qy = true ∧ pixel c.fb qx qy = true := by
  induction rows generalizing c y with
  | nil => simp [Canvas.drawRows, spriteLit_nil]
  | cons row rest ih =>
    rw [Canvas.drawRows, ih]
    by_cases hy : y < 32
    · rw [if_pos hy, Canvas.hit_drawRow _ _ _ _ hy]
      constructor
      · rintro ((h | ⟨j, hj, hlt, hb, hp⟩) | ⟨qx, qy, hqx, hqy, hl, hp⟩)
        · exact .inl h
        · refine .inr ⟨x0 + j, y, hlt, hy, ?_, hp⟩
          rw [spriteLit_cons, if_pos rfl]
          simp [hj, hb]
        · have hne : y ≠ qy := by
            rintro rfl
            simp [spriteLit] at hl
          refine .inr ⟨qx, qy, hqx, hqy, by rw [spriteLit_cons, if_neg hne]; exact hl, ?_⟩
          rw [Canvas.pixel_drawRow _ _ _ _ _ _ hqx hqy] at hp
          simpa [hne] using hp
      · rintro (h | ⟨qx, qy, hqx, hqy, hl, hp⟩)
        · exact .inl (.inl h)
        · rw [spriteLit_cons] at hl
          by_cases he : y = qy
          · subst he
            rw [if_pos rfl] at hl
            simp only [Bool.and_eq_true, decide_eq_true_eq] at hl
            obtain ⟨⟨h1, h2⟩, hb⟩ := hl
            have e : x0 + (qx - x0) = qx := by omega
            exact .inl (.inr ⟨qx - x0, by omega, by omega, hb, by rw [e]; exact hp⟩)
          · rw [if_neg he] at hl
            refine .inr ⟨qx, qy, hqx, hqy, hl, ?_⟩
            rw [Canvas.pixel_drawRow _ _ _ _ _ _ hqx hqy]
            simpa [he] using hp
    · rw [if_neg hy]
      refine or_congr Iff.rfl (exists_congr fun qx => exists_congr fun qy => ?_)
      refine and_congr_right fun _ => and_congr_right fun hqy => ?_
      have : y ≠ qy := by omega
      rw [spriteLit_cons, if_neg this]

/-- Every pixel after a blit: flipped where the sprite has a 1 bit, else as it was (R160). -/
theorem pixel_blit (x y : Byte) (rows : List Byte) (fb : Vector Byte 256) (qx qy : Nat) (hqx : qx < 64) (hqy : qy < 32) :
    pixel (blit x y rows fb).fb qx qy = (pixel fb qx qy ^^ spriteLit (x.toNat % 64) y.toNat rows qx qy) :=
  Canvas.pixel_drawRows _ _ _ _ _ _ hqx hqy

/-- A blit collides exactly when a lit pixel of the display lies under a 1 bit of the sprite (R160). -/
theorem hit_blit (x y : Byte) (rows : List Byte) (fb : Vector Byte 256) :
    (blit x y rows fb).hit = true ↔
      ∃ qx qy, qx < 64 ∧ qy < 32 ∧ spriteLit (x.toNat % 64) y.toNat rows qx qy = true ∧ pixel fb qx qy = true := by
  rw [blit, Canvas.hit_drawRows]
  simp

end Sys2Proof.Machine
end

