-- ==== Sys2Proof/Laws/Decode.lean ====
section
/-! SUPPORT. What each field reads of each format, and the two bytes of a word (30_encoding.md R71, R73; 20_memory.md R56). -/

namespace Sys2Proof

/-! ### Fields of a format -/

@[simp] theorem fieldA_formatNNN (a : BitVec 4) (nnn : Addr) : fieldA (formatNNN a nnn) = a := by
  show BitVec.extractLsb' 12 4 (a ++ nnn : BitVec (4 + 12)) = a
  rw [BitVec.extractLsb'_append_eq_of_le (by decide)]; simp

@[simp] theorem fieldNNN_formatNNN (a : BitVec 4) (nnn : Addr) : fieldNNN (formatNNN a nnn) = nnn := by
  show BitVec.extractLsb' 0 12 (a ++ nnn : BitVec (4 + 12)) = nnn
  rw [BitVec.extractLsb'_append_eq_of_add_le (by decide)]; simp

@[simp] theorem fieldA_formatXNN (a : BitVec 4) (x : Reg) (nn : Byte) : fieldA (formatXNN a x nn) = a := by
  show BitVec.extractLsb' 12 4 (a ++ BitVec.ofFin (w := 4) x ++ nn : BitVec (4 + 4 + 8)) = a
  rw [BitVec.extractLsb'_append_eq_of_le (by decide), BitVec.extractLsb'_append_eq_of_le (by decide)]; simp

@[simp] theorem fieldX_formatXNN (a : BitVec 4) (x : Reg) (nn : Byte) : fieldX (formatXNN a x nn) = x := by
  show (BitVec.extractLsb' 8 4 (a ++ BitVec.ofFin (w := 4) x ++ nn : BitVec (4 + 4 + 8))).toFin = x
  rw [BitVec.extractLsb'_append_eq_of_le (by decide), BitVec.extractLsb'_append_eq_of_add_le (by decide)]; simp

@[simp] theorem fieldNN_formatXNN (a : BitVec 4) (x : Reg) (nn : Byte) : fieldNN (formatXNN a x nn) = nn := by
  show BitVec.extractLsb' 0 8 (a ++ BitVec.ofFin (w := 4) x ++ nn : BitVec (4 + 4 + 8)) = nn
  rw [BitVec.extractLsb'_append_eq_of_add_le (by decide)]; simp

@[simp] theorem fieldA_formatXYN (a : BitVec 4) (x y : Reg) (n : BitVec 4) : fieldA (formatXYN a x y n) = a := by
  show BitVec.extractLsb' 12 4 (a ++ BitVec.ofFin (w := 4) x ++ BitVec.ofFin (w := 4) y ++ n : BitVec (4 + 4 + 4 + 4)) = a
  rw [BitVec.extractLsb'_append_eq_of_le (by decide), BitVec.extractLsb'_append_eq_of_le (by decide), BitVec.extractLsb'_append_eq_of_le (by decide)]; simp

@[simp] theorem fieldX_formatXYN (a : BitVec 4) (x y : Reg) (n : BitVec 4) : fieldX (formatXYN a x y n) = x := by
  show (BitVec.extractLsb' 8 4 (a ++ BitVec.ofFin (w := 4) x ++ BitVec.ofFin (w := 4) y ++ n : BitVec (4 + 4 + 4 + 4))).toFin = x
  rw [BitVec.extractLsb'_append_eq_of_le (by decide), BitVec.extractLsb'_append_eq_of_le (by decide), BitVec.extractLsb'_append_eq_of_add_le (by decide)]; simp

@[simp] theorem fieldY_formatXYN (a : BitVec 4) (x y : Reg) (n : BitVec 4) : fieldY (formatXYN a x y n) = y := by
  show (BitVec.extractLsb' 4 4 (a ++ BitVec.ofFin (w := 4) x ++ BitVec.ofFin (w := 4) y ++ n : BitVec (4 + 4 + 4 + 4))).toFin = y
  rw [BitVec.extractLsb'_append_eq_of_le (by decide), BitVec.extractLsb'_append_eq_of_add_le (by decide)]; simp

@[simp] theorem fieldN_formatXYN (a : BitVec 4) (x y : Reg) (n : BitVec 4) : fieldN (formatXYN a x y n) = n := by
  show BitVec.extractLsb' 0 4 (a ++ BitVec.ofFin (w := 4) x ++ BitVec.ofFin (w := 4) y ++ n : BitVec (4 + 4 + 4 + 4)) = n
  rw [BitVec.extractLsb'_append_eq_of_add_le (by decide)]; simp

/-! ### The two bytes of a word -/

@[simp] theorem firstByte_wordOfBytes (b c : Byte) : firstByte (wordOfBytes b c) = b := by
  show BitVec.extractLsb' 8 8 (b ++ c : BitVec (8 + 8)) = b
  rw [BitVec.extractLsb'_append_eq_of_le (by decide)]; simp

@[simp] theorem secondByte_wordOfBytes (b c : Byte) : secondByte (wordOfBytes b c) = c := by
  show BitVec.extractLsb' 0 8 (b ++ c : BitVec (8 + 8)) = c
  rw [BitVec.extractLsb'_append_eq_of_add_le (by decide)]; simp

@[simp] theorem wordOfBytes_bytes (w : Word) : wordOfBytes (firstByte w) (secondByte w) = w := by
  refine BitVec.eq_of_getLsbD_eq fun k hk => ?_
  simp only [wordOfBytes, firstByte, secondByte, BitVec.getLsbD_append, BitVec.getLsbD_extractLsb']
  by_cases h : k < 8
  · simp [h]
  · have : 8 + (k - 8) = k := by omega
    simp [h, this, show k - 8 < 8 by omega]

/-- A word is its fields in format NNN. -/
theorem formatNNN_fields (w : Word) : formatNNN (fieldA w) (fieldNNN w) = w := by
  refine BitVec.eq_of_getLsbD_eq fun k hk => ?_
  simp only [formatNNN, fieldA, fieldNNN, BitVec.getLsbD_append, BitVec.getLsbD_extractLsb']
  by_cases h : k < 12
  · simp [h]
  · have : 12 + (k - 12) = k := by omega
    simp [h, this, show k - 12 < 4 by omega]

/-- A word is its fields in format XNN. -/
theorem formatXNN_fields (w : Word) : formatXNN (fieldA w) (fieldX w) (fieldNN w) = w := by
  refine BitVec.eq_of_getLsbD_eq fun k hk => ?_
  simp only [formatXNN, fieldA, fieldX, fieldNN, regBits, BitVec.getLsbD_append, BitVec.getLsbD_extractLsb',
    BitVec.ofFin_toFin]
  by_cases h : k < 8
  · simp [h]
  · by_cases h' : k < 12
    · have : 8 + (k - 8) = k := by omega
      simp [h, this, show k - 8 < 4 by omega]
    · have : 12 + (k - 8 - 4) = k := by omega
      simp [h, this, show ¬(k - 8 < 4) by omega, show k - 8 - 4 < 4 by omega]

/-- A word is its fields in format XYN. -/
theorem formatXYN_fields (w : Word) : formatXYN (fieldA w) (fieldX w) (fieldY w) (fieldN w) = w := by
  refine BitVec.eq_of_getLsbD_eq fun k hk => ?_
  simp only [formatXYN, fieldA, fieldX, fieldY, fieldN, regBits, BitVec.getLsbD_append, BitVec.getLsbD_extractLsb',
    BitVec.ofFin_toFin]
  by_cases h : k < 4
  · simp [h]
  · by_cases h' : k < 8
    · have : 4 + (k - 4) = k := by omega
      simp [h, this, show k - 4 < 4 by omega]
    · by_cases h'' : k < 12
      · have : 8 + (k - 4 - 4) = k := by omega
        simp [h, this, show ¬(k - 4 < 4) by omega, show k - 4 - 4 < 4 by omega]
      · have : 12 + (k - 4 - 4 - 4) = k := by omega
        simp [h, this, show ¬(k - 4 < 4) by omega, show ¬(k - 4 - 4 < 4) by omega, show k - 4 - 4 - 4 < 4 by omega]

/-- The decoder answers exactly what `decode?` finds. -/
theorem decode_eq_ok {w : Word} {i : Instr} : decode w = .ok i ↔ decode? w = some i := by
  unfold decode
  cases decode? w <;> simp

/-- The decoder's only refusal carries the word itself (30_encoding.md R78). -/
theorem decode_eq_error {w : Word} {e : DecodeError} :
    decode w = .error e ↔ decode? w = none ∧ e = .illegalInstruction w := by
  unfold decode
  cases decode? w <;> simp [eq_comm]

end Sys2Proof
end

