-- ==== Sys2Proof/Laws/Memory.lean ====
section
/-! SUPPORT. The laws of memory: read after write, the canonical form is kept, equal memories are equal lists. -/

namespace Sys2Proof.Machine

/-! ### Canonical form -/

theorem Memory.wfFrom_cons {c : Config} {lo k : Nat} {b : Byte} {rest : List Host.Cell} :
    Memory.wfFrom c lo ((k, b) :: rest) = true ↔
      lo ≤ k ∧ k < 4096 ∧ b ≠ Memory.background c k ∧ Memory.wfFrom c (k + 1) rest = true := by
  simp [Memory.wfFrom, and_assoc, memSize]

theorem Memory.wfFrom_mono {c : Config} {lo lo' : Nat} (h : lo' ≤ lo) {m : List Host.Cell}
    (hm : Memory.wfFrom c lo m = true) : Memory.wfFrom c lo' m = true := by
  cases m with
  | nil => rfl
  | cons cell rest =>
    obtain ⟨k, b⟩ := cell
    rw [Memory.wfFrom_cons] at hm ⊢
    exact ⟨by omega, hm.2⟩

theorem Memory.wf_nil (c : Config) : Memory.wf c [] = true := rfl

/-- An address below a canonical list reads as its reset content. -/
theorem Memory.read_below {c : Config} {m : List Host.Cell} {lo a : Nat} (hm : Memory.wfFrom c lo m = true)
    (h : a < lo) : Memory.read c m a = Memory.background c a := by
  induction m generalizing lo with
  | nil => rfl
  | cons cell rest ih =>
    obtain ⟨k, b⟩ := cell
    rw [Memory.wfFrom_cons] at hm
    have hk : k ≠ a := by omega
    simp only [Memory.read, hk, if_false]
    exact ih hm.2.2.2 (by omega)

theorem Memory.wfFrom_insert {c : Config} {m : List Host.Cell} {lo a : Nat} {b : Byte} (hm : Memory.wfFrom c lo m = true)
    (hlo : lo ≤ a) (ha : a < 4096) (hb : b ≠ Memory.background c a) :
    Memory.wfFrom c lo (Memory.insert a b m) = true := by
  induction m generalizing lo with
  | nil => exact Memory.wfFrom_cons.2 ⟨hlo, ha, hb, rfl⟩
  | cons cell rest ih =>
    obtain ⟨k, x⟩ := cell
    rw [Memory.wfFrom_cons] at hm
    simp only [Memory.insert]
    split
    · exact Memory.wfFrom_cons.2 ⟨hlo, ha, hb, Memory.wfFrom_cons.2 ⟨by omega, hm.2⟩⟩
    · split
      · subst a; exact Memory.wfFrom_cons.2 ⟨hlo, ha, hb, hm.2.2.2⟩
      · exact Memory.wfFrom_cons.2 ⟨hm.1, hm.2.1, hm.2.2.1, ih hm.2.2.2 (by omega)⟩

theorem Memory.wfFrom_erase {c : Config} {m : List Host.Cell} {lo a : Nat} (hm : Memory.wfFrom c lo m = true) :
    Memory.wfFrom c lo (Memory.erase a m) = true := by
  induction m generalizing lo with
  | nil => rfl
  | cons cell rest ih =>
    obtain ⟨k, x⟩ := cell
    rw [Memory.wfFrom_cons] at hm
    simp only [Memory.erase]
    split
    · exact Memory.wfFrom_mono (by omega) hm.2.2.2
    · exact Memory.wfFrom_cons.2 ⟨hm.1, hm.2.1, hm.2.2.1, ih hm.2.2.2⟩

/-- A write inside memory keeps the canonical form. -/
theorem Memory.wf_write {c : Config} {m : List Host.Cell} {a : Nat} (b : Byte) (hm : Memory.wf c m = true)
    (ha : a < 4096) : Memory.wf c (Memory.write c m a b) = true := by
  unfold Memory.write
  split
  · exact Memory.wfFrom_erase hm
  · exact Memory.wfFrom_insert hm (Nat.zero_le a) ha ‹_›

/-- A write of consecutive bytes inside memory keeps the canonical form. -/
theorem Memory.wf_writeList {c : Config} {m : List Host.Cell} {a : Nat} {bytes : List Byte} (hm : Memory.wf c m = true)
    (ha : a + bytes.length ≤ 4096) : Memory.wf c (Memory.writeList c m a bytes) = true := by
  induction bytes generalizing m a with
  | nil => exact hm
  | cons b rest ih =>
    simp only [List.length_cons] at ha
    exact ih (Memory.wf_write b hm (by omega)) (by omega)

/-! ### Read after write -/

theorem Memory.read_insert {c : Config} (m : List Host.Cell) (a a' : Nat) (b : Byte) :
    Memory.read c (Memory.insert a b m) a' = if a = a' then b else Memory.read c m a' := by
  induction m with
  | nil => simp [Memory.insert, Memory.read]
  | cons cell rest ih =>
    obtain ⟨k, x⟩ := cell
    simp only [Memory.insert]
    split
    · simp [Memory.read]
    · split
      · subst a; by_cases h : k = a' <;> simp [Memory.read, h]
      · by_cases h : k = a'
        · have : a ≠ a' := by omega
          simp [Memory.read, h, this]
        · simp [Memory.read, h, ih]

theorem Memory.read_erase {c : Config} {m : List Host.Cell} {lo : Nat} (a a' : Nat) (hm : Memory.wfFrom c lo m = true) :
    Memory.read c (Memory.erase a m) a' = if a = a' then Memory.background c a' else Memory.read c m a' := by
  induction m generalizing lo with
  | nil => simp [Memory.erase, Memory.read]
  | cons cell rest ih =>
    obtain ⟨k, x⟩ := cell
    rw [Memory.wfFrom_cons] at hm
    simp only [Memory.erase]
    by_cases hk : k = a
    · subst hk
      by_cases h : k = a'
      · subst h; simp [Memory.read_below hm.2.2.2 (Nat.lt_succ_self k)]
      · simp [Memory.read, h]
    · simp only [hk, if_false, Memory.read]
      by_cases h : k = a'
      · have : a ≠ a' := by omega
        simp [h, this]
      · simp [h, ih hm.2.2.2]

/-- A read after a write of one byte: the byte at its address, what was there everywhere else. -/
theorem Memory.read_write {c : Config} {m : List Host.Cell} (a a' : Nat) (b : Byte) (hm : Memory.wf c m = true) :
    Memory.read c (Memory.write c m a b) a' = if a = a' then b else Memory.read c m a' := by
  unfold Memory.write
  split
  · rename_i hb
    rw [Memory.read_erase a a' hm]
    by_cases h : a = a'
    · subst h; simp [hb]
    · simp [h]
  · exact Memory.read_insert m a a' b

/-- A read after a write of consecutive bytes. -/
theorem Memory.read_writeList {c : Config} {m : List Host.Cell} {a : Nat} {bytes : List Byte} (a' : Nat)
    (hm : Memory.wf c m = true) (ha : a + bytes.length ≤ 4096) :
    Memory.read c (Memory.writeList c m a bytes) a' =
      if a ≤ a' ∧ a' < a + bytes.length then bytes.getD (a' - a) 0 else Memory.read c m a' := by
  induction bytes generalizing m a with
  | nil =>
    have : ¬(a ≤ a' ∧ a' < a + ([] : List Byte).length) := by simp
    rw [if_neg this]; rfl
  | cons b rest ih =>
    simp only [List.length_cons] at ha
    rw [Memory.writeList, ih (Memory.wf_write b hm (by omega)) (by omega), Memory.read_write a a' b hm]
    simp only [List.length_cons]
    by_cases h0 : a = a'
    · subst h0
      have h1 : ¬(a + 1 ≤ a ∧ a < a + 1 + rest.length) := by omega
      have h2 : a ≤ a ∧ a < a + (rest.length + 1) := by omega
      rw [if_neg h1, if_pos rfl, if_pos h2]; simp
    · by_cases h1 : a + 1 ≤ a' ∧ a' < a + 1 + rest.length
      · have h2 : a ≤ a' ∧ a' < a + (rest.length + 1) := by omega
        rw [if_pos h1, if_pos h2]
        obtain ⟨d, rfl⟩ : ∃ d, a' = a + 1 + d := ⟨a' - (a + 1), by omega⟩
        have e1 : a + 1 + d - (a + 1) = d := by omega
        have e2 : a + 1 + d - a = d + 1 := by omega
        rw [e1, e2]; simp
      · have h2 : ¬(a ≤ a' ∧ a' < a + (rest.length + 1)) := by omega
        rw [if_neg h1, if_neg h0, if_neg h2]

@[simp] theorem Memory.length_readList (c : Config) (m : List Host.Cell) (a n : Nat) :
    (Memory.readList c m a n).length = n := by
  induction n generalizing a with
  | zero => rfl
  | succ n ih => simp [Memory.readList, ih]

theorem Memory.getD_readList (c : Config) (m : List Host.Cell) (a n k : Nat) (h : k < n) :
    (Memory.readList c m a n).getD k 0 = Memory.read c m (a + k) := by
  induction n generalizing a k with
  | zero => omega
  | succ n ih =>
    cases k with
    | zero => simp [Memory.readList]
    | succ k =>
      have := ih (a + 1) k (by omega)
      simp only [Memory.readList, List.getD_cons_succ, this]
      congr 1; omega

/-! ### Equal memories are equal lists -/

theorem Memory.ext_wfFrom {c : Config} {m m' : List Host.Cell} {lo : Nat} (hm : Memory.wfFrom c lo m = true)
    (hm' : Memory.wfFrom c lo m' = true) (h : ∀ a, Memory.read c m a = Memory.read c m' a) : m = m' := by
  induction m generalizing m' lo with
  | nil =>
    cases m' with
    | nil => rfl
    | cons cell rest =>
      obtain ⟨k, b⟩ := cell
      have := h k
      rw [Memory.wfFrom_cons] at hm'
      simp [Memory.read] at this
      exact absurd this.symm hm'.2.2.1
  | cons cell rest ih =>
    obtain ⟨k, b⟩ := cell
    rw [Memory.wfFrom_cons] at hm
    cases m' with
    | nil =>
      have := h k
      simp [Memory.read] at this
      exact absurd this hm.2.2.1
    | cons cell' rest' =>
      obtain ⟨k', b'⟩ := cell'
      rw [Memory.wfFrom_cons] at hm'
      obtain hlt | heq | hgt := Nat.lt_trichotomy k k'
      · have := h k
        have hne : k' ≠ k := by omega
        simp only [Memory.read, if_true, hne, if_false] at this
        rw [Memory.read_below hm'.2.2.2 (by omega)] at this
        exact absurd this hm.2.2.1
      · subst heq
        have hb : b = b' := by simpa [Memory.read] using h k
        have hr : rest = rest' := by
          refine ih hm.2.2.2 hm'.2.2.2 fun a => ?_
          by_cases ha : k = a
          · subst ha
            rw [Memory.read_below hm.2.2.2 (Nat.lt_succ_self k), Memory.read_below hm'.2.2.2 (Nat.lt_succ_self k)]
          · simpa [Memory.read, ha] using h a
        rw [hb, hr]
      · have := h k'
        have hne : k ≠ k' := by omega
        simp only [Memory.read, if_true, hne, if_false] at this
        rw [Memory.read_below hm.2.2.2 (by omega)] at this
        exact absurd this.symm hm'.2.2.1

/-- Two canonical memories that read alike are the same list. -/
theorem Memory.ext_of_read {c : Config} {m m' : List Host.Cell} (hm : Memory.wf c m = true) (hm' : Memory.wf c m' = true)
    (h : ∀ a, Memory.read c m a = Memory.read c m' a) : m = m' := Memory.ext_wfFrom hm hm' h

end Sys2Proof.Machine
end

