-- ==== Sys2Proof/Laws/State.lean ====
section
/-! SUPPORT. One lemma per field of State per update, each true by rfl, and what one register reads after an update. -/

namespace Sys2Proof.Machine

/-! ### setV -/

@[simp] theorem State.setV_v (s : State) (x : Reg) (b : Byte) : (s.setV x b).v = s.v.set x b := rfl
@[simp] theorem State.setV_i (s : State) (x : Reg) (b : Byte) : (s.setV x b).i = s.i := rfl
@[simp] theorem State.setV_pc (s : State) (x : Reg) (b : Byte) : (s.setV x b).pc = s.pc := rfl
@[simp] theorem State.setV_stack (s : State) (x : Reg) (b : Byte) : (s.setV x b).stack = s.stack := rfl
@[simp] theorem State.setV_sp (s : State) (x : Reg) (b : Byte) : (s.setV x b).sp = s.sp := rfl
@[simp] theorem State.setV_dt (s : State) (x : Reg) (b : Byte) : (s.setV x b).dt = s.dt := rfl
@[simp] theorem State.setV_st (s : State) (x : Reg) (b : Byte) : (s.setV x b).st = s.st := rfl
@[simp] theorem State.setV_keys (s : State) (x : Reg) (b : Byte) : (s.setV x b).keys = s.keys := rfl
@[simp] theorem State.setV_fb (s : State) (x : Reg) (b : Byte) : (s.setV x b).fb = s.fb := rfl
@[simp] theorem State.setV_redraw (s : State) (x : Reg) (b : Byte) : (s.setV x b).redraw = s.redraw := rfl
@[simp] theorem State.setV_rng (s : State) (x : Reg) (b : Byte) : (s.setV x b).rng = s.rng := rfl
@[simp] theorem State.setV_mem (s : State) (x : Reg) (b : Byte) : (s.setV x b).mem = s.mem := rfl
@[simp] theorem State.setV_shiftSrc (s : State) (x : Reg) (b : Byte) : (s.setV x b).shiftSrc = s.shiftSrc := rfl
@[simp] theorem State.setV_config (s : State) (x : Reg) (b : Byte) : (s.setV x b).config = s.config := rfl

/-! ### setI -/

@[simp] theorem State.setI_v (s : State) (w : Word) : (s.setI w).v = s.v := rfl
@[simp] theorem State.setI_i (s : State) (w : Word) : (s.setI w).i = w := rfl
@[simp] theorem State.setI_pc (s : State) (w : Word) : (s.setI w).pc = s.pc := rfl
@[simp] theorem State.setI_stack (s : State) (w : Word) : (s.setI w).stack = s.stack := rfl
@[simp] theorem State.setI_sp (s : State) (w : Word) : (s.setI w).sp = s.sp := rfl
@[simp] theorem State.setI_dt (s : State) (w : Word) : (s.setI w).dt = s.dt := rfl
@[simp] theorem State.setI_st (s : State) (w : Word) : (s.setI w).st = s.st := rfl
@[simp] theorem State.setI_keys (s : State) (w : Word) : (s.setI w).keys = s.keys := rfl
@[simp] theorem State.setI_fb (s : State) (w : Word) : (s.setI w).fb = s.fb := rfl
@[simp] theorem State.setI_redraw (s : State) (w : Word) : (s.setI w).redraw = s.redraw := rfl
@[simp] theorem State.setI_rng (s : State) (w : Word) : (s.setI w).rng = s.rng := rfl
@[simp] theorem State.setI_mem (s : State) (w : Word) : (s.setI w).mem = s.mem := rfl
@[simp] theorem State.setI_shiftSrc (s : State) (w : Word) : (s.setI w).shiftSrc = s.shiftSrc := rfl
@[simp] theorem State.setI_config (s : State) (w : Word) : (s.setI w).config = s.config := rfl

/-! ### setPc -/

@[simp] theorem State.setPc_v (s : State) (w : Word) : (s.setPc w).v = s.v := rfl
@[simp] theorem State.setPc_i (s : State) (w : Word) : (s.setPc w).i = s.i := rfl
@[simp] theorem State.setPc_pc (s : State) (w : Word) : (s.setPc w).pc = w := rfl
@[simp] theorem State.setPc_stack (s : State) (w : Word) : (s.setPc w).stack = s.stack := rfl
@[simp] theorem State.setPc_sp (s : State) (w : Word) : (s.setPc w).sp = s.sp := rfl
@[simp] theorem State.setPc_dt (s : State) (w : Word) : (s.setPc w).dt = s.dt := rfl
@[simp] theorem State.setPc_st (s : State) (w : Word) : (s.setPc w).st = s.st := rfl
@[simp] theorem State.setPc_keys (s : State) (w : Word) : (s.setPc w).keys = s.keys := rfl
@[simp] theorem State.setPc_fb (s : State) (w : Word) : (s.setPc w).fb = s.fb := rfl
@[simp] theorem State.setPc_redraw (s : State) (w : Word) : (s.setPc w).redraw = s.redraw := rfl
@[simp] theorem State.setPc_rng (s : State) (w : Word) : (s.setPc w).rng = s.rng := rfl
@[simp] theorem State.setPc_mem (s : State) (w : Word) : (s.setPc w).mem = s.mem := rfl
@[simp] theorem State.setPc_shiftSrc (s : State) (w : Word) : (s.setPc w).shiftSrc = s.shiftSrc := rfl
@[simp] theorem State.setPc_config (s : State) (w : Word) : (s.setPc w).config = s.config := rfl

/-! ### setDT -/

@[simp] theorem State.setDT_v (s : State) (b : Byte) : (s.setDT b).v = s.v := rfl
@[simp] theorem State.setDT_i (s : State) (b : Byte) : (s.setDT b).i = s.i := rfl
@[simp] theorem State.setDT_pc (s : State) (b : Byte) : (s.setDT b).pc = s.pc := rfl
@[simp] theorem State.setDT_stack (s : State) (b : Byte) : (s.setDT b).stack = s.stack := rfl
@[simp] theorem State.setDT_sp (s : State) (b : Byte) : (s.setDT b).sp = s.sp := rfl
@[simp] theorem State.setDT_dt (s : State) (b : Byte) : (s.setDT b).dt = b := rfl
@[simp] theorem State.setDT_st (s : State) (b : Byte) : (s.setDT b).st = s.st := rfl
@[simp] theorem State.setDT_keys (s : State) (b : Byte) : (s.setDT b).keys = s.keys := rfl
@[simp] theorem State.setDT_fb (s : State) (b : Byte) : (s.setDT b).fb = s.fb := rfl
@[simp] theorem State.setDT_redraw (s : State) (b : Byte) : (s.setDT b).redraw = s.redraw := rfl
@[simp] theorem State.setDT_rng (s : State) (b : Byte) : (s.setDT b).rng = s.rng := rfl
@[simp] theorem State.setDT_mem (s : State) (b : Byte) : (s.setDT b).mem = s.mem := rfl
@[simp] theorem State.setDT_shiftSrc (s : State) (b : Byte) : (s.setDT b).shiftSrc = s.shiftSrc := rfl
@[simp] theorem State.setDT_config (s : State) (b : Byte) : (s.setDT b).config = s.config := rfl

/-! ### setST -/

@[simp] theorem State.setST_v (s : State) (b : Byte) : (s.setST b).v = s.v := rfl
@[simp] theorem State.setST_i (s : State) (b : Byte) : (s.setST b).i = s.i := rfl
@[simp] theorem State.setST_pc (s : State) (b : Byte) : (s.setST b).pc = s.pc := rfl
@[simp] theorem State.setST_stack (s : State) (b : Byte) : (s.setST b).stack = s.stack := rfl
@[simp] theorem State.setST_sp (s : State) (b : Byte) : (s.setST b).sp = s.sp := rfl
@[simp] theorem State.setST_dt (s : State) (b : Byte) : (s.setST b).dt = s.dt := rfl
@[simp] theorem State.setST_st (s : State) (b : Byte) : (s.setST b).st = b := rfl
@[simp] theorem State.setST_keys (s : State) (b : Byte) : (s.setST b).keys = s.keys := rfl
@[simp] theorem State.setST_fb (s : State) (b : Byte) : (s.setST b).fb = s.fb := rfl
@[simp] theorem State.setST_redraw (s : State) (b : Byte) : (s.setST b).redraw = s.redraw := rfl
@[simp] theorem State.setST_rng (s : State) (b : Byte) : (s.setST b).rng = s.rng := rfl
@[simp] theorem State.setST_mem (s : State) (b : Byte) : (s.setST b).mem = s.mem := rfl
@[simp] theorem State.setST_shiftSrc (s : State) (b : Byte) : (s.setST b).shiftSrc = s.shiftSrc := rfl
@[simp] theorem State.setST_config (s : State) (b : Byte) : (s.setST b).config = s.config := rfl

/-! ### setKeys -/

@[simp] theorem State.setKeys_v (s : State) (k : Vector Bool 16) : (s.setKeys k).v = s.v := rfl
@[simp] theorem State.setKeys_i (s : State) (k : Vector Bool 16) : (s.setKeys k).i = s.i := rfl
@[simp] theorem State.setKeys_pc (s : State) (k : Vector Bool 16) : (s.setKeys k).pc = s.pc := rfl
@[simp] theorem State.setKeys_stack (s : State) (k : Vector Bool 16) : (s.setKeys k).stack = s.stack := rfl
@[simp] theorem State.setKeys_sp (s : State) (k : Vector Bool 16) : (s.setKeys k).sp = s.sp := rfl
@[simp] theorem State.setKeys_dt (s : State) (k : Vector Bool 16) : (s.setKeys k).dt = s.dt := rfl
@[simp] theorem State.setKeys_st (s : State) (k : Vector Bool 16) : (s.setKeys k).st = s.st := rfl
@[simp] theorem State.setKeys_keys (s : State) (k : Vector Bool 16) : (s.setKeys k).keys = k := rfl
@[simp] theorem State.setKeys_fb (s : State) (k : Vector Bool 16) : (s.setKeys k).fb = s.fb := rfl
@[simp] theorem State.setKeys_redraw (s : State) (k : Vector Bool 16) : (s.setKeys k).redraw = s.redraw := rfl
@[simp] theorem State.setKeys_rng (s : State) (k : Vector Bool 16) : (s.setKeys k).rng = s.rng := rfl
@[simp] theorem State.setKeys_mem (s : State) (k : Vector Bool 16) : (s.setKeys k).mem = s.mem := rfl
@[simp] theorem State.setKeys_shiftSrc (s : State) (k : Vector Bool 16) : (s.setKeys k).shiftSrc = s.shiftSrc := rfl
@[simp] theorem State.setKeys_config (s : State) (k : Vector Bool 16) : (s.setKeys k).config = s.config := rfl

/-! ### setFb -/

@[simp] theorem State.setFb_v (s : State) (f : Vector Byte 256) : (s.setFb f).v = s.v := rfl
@[simp] theorem State.setFb_i (s : State) (f : Vector Byte 256) : (s.setFb f).i = s.i := rfl
@[simp] theorem State.setFb_pc (s : State) (f : Vector Byte 256) : (s.setFb f).pc = s.pc := rfl
@[simp] theorem State.setFb_stack (s : State) (f : Vector Byte 256) : (s.setFb f).stack = s.stack := rfl
@[simp] theorem State.setFb_sp (s : State) (f : Vector Byte 256) : (s.setFb f).sp = s.sp := rfl
@[simp] theorem State.setFb_dt (s : State) (f : Vector Byte 256) : (s.setFb f).dt = s.dt := rfl
@[simp] theorem State.setFb_st (s : State) (f : Vector Byte 256) : (s.setFb f).st = s.st := rfl
@[simp] theorem State.setFb_keys (s : State) (f : Vector Byte 256) : (s.setFb f).keys = s.keys := rfl
@[simp] theorem State.setFb_fb (s : State) (f : Vector Byte 256) : (s.setFb f).fb = f := rfl
@[simp] theorem State.setFb_redraw (s : State) (f : Vector Byte 256) : (s.setFb f).redraw = s.redraw := rfl
@[simp] theorem State.setFb_rng (s : State) (f : Vector Byte 256) : (s.setFb f).rng = s.rng := rfl
@[simp] theorem State.setFb_mem (s : State) (f : Vector Byte 256) : (s.setFb f).mem = s.mem := rfl
@[simp] theorem State.setFb_shiftSrc (s : State) (f : Vector Byte 256) : (s.setFb f).shiftSrc = s.shiftSrc := rfl
@[simp] theorem State.setFb_config (s : State) (f : Vector Byte 256) : (s.setFb f).config = s.config := rfl

/-! ### setRedraw -/

@[simp] theorem State.setRedraw_v (s : State) (b : Bool) : (s.setRedraw b).v = s.v := rfl
@[simp] theorem State.setRedraw_i (s : State) (b : Bool) : (s.setRedraw b).i = s.i := rfl
@[simp] theorem State.setRedraw_pc (s : State) (b : Bool) : (s.setRedraw b).pc = s.pc := rfl
@[simp] theorem State.setRedraw_stack (s : State) (b : Bool) : (s.setRedraw b).stack = s.stack := rfl
@[simp] theorem State.setRedraw_sp (s : State) (b : Bool) : (s.setRedraw b).sp = s.sp := rfl
@[simp] theorem State.setRedraw_dt (s : State) (b : Bool) : (s.setRedraw b).dt = s.dt := rfl
@[simp] theorem State.setRedraw_st (s : State) (b : Bool) : (s.setRedraw b).st = s.st := rfl
@[simp] theorem State.setRedraw_keys (s : State) (b : Bool) : (s.setRedraw b).keys = s.keys := rfl
@[simp] theorem State.setRedraw_fb (s : State) (b : Bool) : (s.setRedraw b).fb = s.fb := rfl
@[simp] theorem State.setRedraw_redraw (s : State) (b : Bool) : (s.setRedraw b).redraw = b := rfl
@[simp] theorem State.setRedraw_rng (s : State) (b : Bool) : (s.setRedraw b).rng = s.rng := rfl
@[simp] theorem State.setRedraw_mem (s : State) (b : Bool) : (s.setRedraw b).mem = s.mem := rfl
@[simp] theorem State.setRedraw_shiftSrc (s : State) (b : Bool) : (s.setRedraw b).shiftSrc = s.shiftSrc := rfl
@[simp] theorem State.setRedraw_config (s : State) (b : Bool) : (s.setRedraw b).config = s.config := rfl

/-! ### setRng -/

@[simp] theorem State.setRng_v (s : State) (w : BitVec 32) : (s.setRng w).v = s.v := rfl
@[simp] theorem State.setRng_i (s : State) (w : BitVec 32) : (s.setRng w).i = s.i := rfl
@[simp] theorem State.setRng_pc (s : State) (w : BitVec 32) : (s.setRng w).pc = s.pc := rfl
@[simp] theorem State.setRng_stack (s : State) (w : BitVec 32) : (s.setRng w).stack = s.stack := rfl
@[simp] theorem State.setRng_sp (s : State) (w : BitVec 32) : (s.setRng w).sp = s.sp := rfl
@[simp] theorem State.setRng_dt (s : State) (w : BitVec 32) : (s.setRng w).dt = s.dt := rfl
@[simp] theorem State.setRng_st (s : State) (w : BitVec 32) : (s.setRng w).st = s.st := rfl
@[simp] theorem State.setRng_keys (s : State) (w : BitVec 32) : (s.setRng w).keys = s.keys := rfl
@[simp] theorem State.setRng_fb (s : State) (w : BitVec 32) : (s.setRng w).fb = s.fb := rfl
@[simp] theorem State.setRng_redraw (s : State) (w : BitVec 32) : (s.setRng w).redraw = s.redraw := rfl
@[simp] theorem State.setRng_rng (s : State) (w : BitVec 32) : (s.setRng w).rng = w := rfl
@[simp] theorem State.setRng_mem (s : State) (w : BitVec 32) : (s.setRng w).mem = s.mem := rfl
@[simp] theorem State.setRng_shiftSrc (s : State) (w : BitVec 32) : (s.setRng w).shiftSrc = s.shiftSrc := rfl
@[simp] theorem State.setRng_config (s : State) (w : BitVec 32) : (s.setRng w).config = s.config := rfl

/-! ### setMem -/

@[simp] theorem State.setMem_v (s : State) (m : List Host.Cell) : (s.setMem m).v = s.v := rfl
@[simp] theorem State.setMem_i (s : State) (m : List Host.Cell) : (s.setMem m).i = s.i := rfl
@[simp] theorem State.setMem_pc (s : State) (m : List Host.Cell) : (s.setMem m).pc = s.pc := rfl
@[simp] theorem State.setMem_stack (s : State) (m : List Host.Cell) : (s.setMem m).stack = s.stack := rfl
@[simp] theorem State.setMem_sp (s : State) (m : List Host.Cell) : (s.setMem m).sp = s.sp := rfl
@[simp] theorem State.setMem_dt (s : State) (m : List Host.Cell) : (s.setMem m).dt = s.dt := rfl
@[simp] theorem State.setMem_st (s : State) (m : List Host.Cell) : (s.setMem m).st = s.st := rfl
@[simp] theorem State.setMem_keys (s : State) (m : List Host.Cell) : (s.setMem m).keys = s.keys := rfl
@[simp] theorem State.setMem_fb (s : State) (m : List Host.Cell) : (s.setMem m).fb = s.fb := rfl
@[simp] theorem State.setMem_redraw (s : State) (m : List Host.Cell) : (s.setMem m).redraw = s.redraw := rfl
@[simp] theorem State.setMem_rng (s : State) (m : List Host.Cell) : (s.setMem m).rng = s.rng := rfl
@[simp] theorem State.setMem_mem (s : State) (m : List Host.Cell) : (s.setMem m).mem = m := rfl
@[simp] theorem State.setMem_shiftSrc (s : State) (m : List Host.Cell) : (s.setMem m).shiftSrc = s.shiftSrc := rfl
@[simp] theorem State.setMem_config (s : State) (m : List Host.Cell) : (s.setMem m).config = s.config := rfl

/-! ### setShiftSrc -/

@[simp] theorem State.setShiftSrc_v (s : State) (c : ShiftSrc) : (s.setShiftSrc c).v = s.v := rfl
@[simp] theorem State.setShiftSrc_i (s : State) (c : ShiftSrc) : (s.setShiftSrc c).i = s.i := rfl
@[simp] theorem State.setShiftSrc_pc (s : State) (c : ShiftSrc) : (s.setShiftSrc c).pc = s.pc := rfl
@[simp] theorem State.setShiftSrc_stack (s : State) (c : ShiftSrc) : (s.setShiftSrc c).stack = s.stack := rfl
@[simp] theorem State.setShiftSrc_sp (s : State) (c : ShiftSrc) : (s.setShiftSrc c).sp = s.sp := rfl
@[simp] theorem State.setShiftSrc_dt (s : State) (c : ShiftSrc) : (s.setShiftSrc c).dt = s.dt := rfl
@[simp] theorem State.setShiftSrc_st (s : State) (c : ShiftSrc) : (s.setShiftSrc c).st = s.st := rfl
@[simp] theorem State.setShiftSrc_keys (s : State) (c : ShiftSrc) : (s.setShiftSrc c).keys = s.keys := rfl
@[simp] theorem State.setShiftSrc_fb (s : State) (c : ShiftSrc) : (s.setShiftSrc c).fb = s.fb := rfl
@[simp] theorem State.setShiftSrc_redraw (s : State) (c : ShiftSrc) : (s.setShiftSrc c).redraw = s.redraw := rfl
@[simp] theorem State.setShiftSrc_rng (s : State) (c : ShiftSrc) : (s.setShiftSrc c).rng = s.rng := rfl
@[simp] theorem State.setShiftSrc_mem (s : State) (c : ShiftSrc) : (s.setShiftSrc c).mem = s.mem := rfl
@[simp] theorem State.setShiftSrc_shiftSrc (s : State) (c : ShiftSrc) : (s.setShiftSrc c).shiftSrc = c := rfl
@[simp] theorem State.setShiftSrc_config (s : State) (c : ShiftSrc) : (s.setShiftSrc c).config = s.config := rfl

/-! ### setStack -/

@[simp] theorem State.setStack_v (s : State) (e : Vector Word 16) (n : Fin 17) : (s.setStack e n).v = s.v := rfl
@[simp] theorem State.setStack_i (s : State) (e : Vector Word 16) (n : Fin 17) : (s.setStack e n).i = s.i := rfl
@[simp] theorem State.setStack_pc (s : State) (e : Vector Word 16) (n : Fin 17) : (s.setStack e n).pc = s.pc := rfl
@[simp] theorem State.setStack_stack (s : State) (e : Vector Word 16) (n : Fin 17) : (s.setStack e n).stack = e := rfl
@[simp] theorem State.setStack_sp (s : State) (e : Vector Word 16) (n : Fin 17) : (s.setStack e n).sp = n := rfl
@[simp] theorem State.setStack_dt (s : State) (e : Vector Word 16) (n : Fin 17) : (s.setStack e n).dt = s.dt := rfl
@[simp] theorem State.setStack_st (s : State) (e : Vector Word 16) (n : Fin 17) : (s.setStack e n).st = s.st := rfl
@[simp] theorem State.setStack_keys (s : State) (e : Vector Word 16) (n : Fin 17) : (s.setStack e n).keys = s.keys := rfl
@[simp] theorem State.setStack_fb (s : State) (e : Vector Word 16) (n : Fin 17) : (s.setStack e n).fb = s.fb := rfl
@[simp] theorem State.setStack_redraw (s : State) (e : Vector Word 16) (n : Fin 17) : (s.setStack e n).redraw = s.redraw := rfl
@[simp] theorem State.setStack_rng (s : State) (e : Vector Word 16) (n : Fin 17) : (s.setStack e n).rng = s.rng := rfl
@[simp] theorem State.setStack_mem (s : State) (e : Vector Word 16) (n : Fin 17) : (s.setStack e n).mem = s.mem := rfl
@[simp] theorem State.setStack_shiftSrc (s : State) (e : Vector Word 16) (n : Fin 17) : (s.setStack e n).shiftSrc = s.shiftSrc := rfl
@[simp] theorem State.setStack_config (s : State) (e : Vector Word 16) (n : Fin 17) : (s.setStack e n).config = s.config := rfl

/-! ### setRegs -/

@[simp] theorem State.setRegs_v (s : State) (w : Vector Byte 16) : (s.setRegs w).v = w := rfl
@[simp] theorem State.setRegs_i (s : State) (w : Vector Byte 16) : (s.setRegs w).i = s.i := rfl
@[simp] theorem State.setRegs_pc (s : State) (w : Vector Byte 16) : (s.setRegs w).pc = s.pc := rfl
@[simp] theorem State.setRegs_stack (s : State) (w : Vector Byte 16) : (s.setRegs w).stack = s.stack := rfl
@[simp] theorem State.setRegs_sp (s : State) (w : Vector Byte 16) : (s.setRegs w).sp = s.sp := rfl
@[simp] theorem State.setRegs_dt (s : State) (w : Vector Byte 16) : (s.setRegs w).dt = s.dt := rfl
@[simp] theorem State.setRegs_st (s : State) (w : Vector Byte 16) : (s.setRegs w).st = s.st := rfl
@[simp] theorem State.setRegs_keys (s : State) (w : Vector Byte 16) : (s.setRegs w).keys = s.keys := rfl
@[simp] theorem State.setRegs_fb (s : State) (w : Vector Byte 16) : (s.setRegs w).fb = s.fb := rfl
@[simp] theorem State.setRegs_redraw (s : State) (w : Vector Byte 16) : (s.setRegs w).redraw = s.redraw := rfl
@[simp] theorem State.setRegs_rng (s : State) (w : Vector Byte 16) : (s.setRegs w).rng = s.rng := rfl
@[simp] theorem State.setRegs_mem (s : State) (w : Vector Byte 16) : (s.setRegs w).mem = s.mem := rfl
@[simp] theorem State.setRegs_shiftSrc (s : State) (w : Vector Byte 16) : (s.setRegs w).shiftSrc = s.shiftSrc := rfl
@[simp] theorem State.setRegs_config (s : State) (w : Vector Byte 16) : (s.setRegs w).config = s.config := rfl

/-! ### advance -/

@[simp] theorem State.advance_v (s : State) : s.advance.v = s.v := rfl
@[simp] theorem State.advance_i (s : State) : s.advance.i = s.i := rfl
@[simp] theorem State.advance_pc (s : State) : s.advance.pc = s.pc + 2 := rfl
@[simp] theorem State.advance_stack (s : State) : s.advance.stack = s.stack := rfl
@[simp] theorem State.advance_sp (s : State) : s.advance.sp = s.sp := rfl
@[simp] theorem State.advance_dt (s : State) : s.advance.dt = s.dt := rfl
@[simp] theorem State.advance_st (s : State) : s.advance.st = s.st := rfl
@[simp] theorem State.advance_keys (s : State) : s.advance.keys = s.keys := rfl
@[simp] theorem State.advance_fb (s : State) : s.advance.fb = s.fb := rfl
@[simp] theorem State.advance_redraw (s : State) : s.advance.redraw = s.redraw := rfl
@[simp] theorem State.advance_rng (s : State) : s.advance.rng = s.rng := rfl
@[simp] theorem State.advance_mem (s : State) : s.advance.mem = s.mem := rfl
@[simp] theorem State.advance_shiftSrc (s : State) : s.advance.shiftSrc = s.shiftSrc := rfl
@[simp] theorem State.advance_config (s : State) : s.advance.config = s.config := rfl

/-! ### rewind -/

@[simp] theorem State.rewind_v (s : State) : s.rewind.v = s.v := rfl
@[simp] theorem State.rewind_i (s : State) : s.rewind.i = s.i := rfl
@[simp] theorem State.rewind_pc (s : State) : s.rewind.pc = s.pc - 2 := rfl
@[simp] theorem State.rewind_stack (s : State) : s.rewind.stack = s.stack := rfl
@[simp] theorem State.rewind_sp (s : State) : s.rewind.sp = s.sp := rfl
@[simp] theorem State.rewind_dt (s : State) : s.rewind.dt = s.dt := rfl
@[simp] theorem State.rewind_st (s : State) : s.rewind.st = s.st := rfl
@[simp] theorem State.rewind_keys (s : State) : s.rewind.keys = s.keys := rfl
@[simp] theorem State.rewind_fb (s : State) : s.rewind.fb = s.fb := rfl
@[simp] theorem State.rewind_redraw (s : State) : s.rewind.redraw = s.redraw := rfl
@[simp] theorem State.rewind_rng (s : State) : s.rewind.rng = s.rng := rfl
@[simp] theorem State.rewind_mem (s : State) : s.rewind.mem = s.mem := rfl
@[simp] theorem State.rewind_shiftSrc (s : State) : s.rewind.shiftSrc = s.shiftSrc := rfl
@[simp] theorem State.rewind_config (s : State) : s.rewind.config = s.config := rfl

/-! ### clear -/

@[simp] theorem State.clear_v (s : State) : s.clear.v = s.v := rfl
@[simp] theorem State.clear_i (s : State) : s.clear.i = s.i := rfl
@[simp] theorem State.clear_pc (s : State) : s.clear.pc = s.pc := rfl
@[simp] theorem State.clear_stack (s : State) : s.clear.stack = s.stack := rfl
@[simp] theorem State.clear_sp (s : State) : s.clear.sp = s.sp := rfl
@[simp] theorem State.clear_dt (s : State) : s.clear.dt = s.dt := rfl
@[simp] theorem State.clear_st (s : State) : s.clear.st = s.st := rfl
@[simp] theorem State.clear_keys (s : State) : s.clear.keys = s.keys := rfl
@[simp] theorem State.clear_fb (s : State) : s.clear.fb = Vector.replicate 256 0 := rfl
@[simp] theorem State.clear_redraw (s : State) : s.clear.redraw = true := rfl
@[simp] theorem State.clear_rng (s : State) : s.clear.rng = s.rng := rfl
@[simp] theorem State.clear_mem (s : State) : s.clear.mem = s.mem := rfl
@[simp] theorem State.clear_shiftSrc (s : State) : s.clear.shiftSrc = s.shiftSrc := rfl
@[simp] theorem State.clear_config (s : State) : s.clear.config = s.config := rfl

/-! ### setFlag -/

@[simp] theorem State.setFlag_v (s : State) (f : Bool) : (s.setFlag f).v = s.v.set VF (flagByte f) := rfl
@[simp] theorem State.setFlag_i (s : State) (f : Bool) : (s.setFlag f).i = s.i := rfl
@[simp] theorem State.setFlag_pc (s : State) (f : Bool) : (s.setFlag f).pc = s.pc := rfl
@[simp] theorem State.setFlag_stack (s : State) (f : Bool) : (s.setFlag f).stack = s.stack := rfl
@[simp] theorem State.setFlag_sp (s : State) (f : Bool) : (s.setFlag f).sp = s.sp := rfl
@[simp] theorem State.setFlag_dt (s : State) (f : Bool) : (s.setFlag f).dt = s.dt := rfl
@[simp] theorem State.setFlag_st (s : State) (f : Bool) : (s.setFlag f).st = s.st := rfl
@[simp] theorem State.setFlag_keys (s : State) (f : Bool) : (s.setFlag f).keys = s.keys := rfl
@[simp] theorem State.setFlag_fb (s : State) (f : Bool) : (s.setFlag f).fb = s.fb := rfl
@[simp] theorem State.setFlag_redraw (s : State) (f : Bool) : (s.setFlag f).redraw = s.redraw := rfl
@[simp] theorem State.setFlag_rng (s : State) (f : Bool) : (s.setFlag f).rng = s.rng := rfl
@[simp] theorem State.setFlag_mem (s : State) (f : Bool) : (s.setFlag f).mem = s.mem := rfl
@[simp] theorem State.setFlag_shiftSrc (s : State) (f : Bool) : (s.setFlag f).shiftSrc = s.shiftSrc := rfl
@[simp] theorem State.setFlag_config (s : State) (f : Bool) : (s.setFlag f).config = s.config := rfl

/-! ### resultThenFlag -/

@[simp] theorem State.resultThenFlag_v (s : State) (x : Reg) (b : Byte) (f : Bool) : (s.resultThenFlag x b f).v = (s.v.set x b).set VF (flagByte f) := rfl
@[simp] theorem State.resultThenFlag_i (s : State) (x : Reg) (b : Byte) (f : Bool) : (s.resultThenFlag x b f).i = s.i := rfl
@[simp] theorem State.resultThenFlag_pc (s : State) (x : Reg) (b : Byte) (f : Bool) : (s.resultThenFlag x b f).pc = s.pc := rfl
@[simp] theorem State.resultThenFlag_stack (s : State) (x : Reg) (b : Byte) (f : Bool) : (s.resultThenFlag x b f).stack = s.stack := rfl
@[simp] theorem State.resultThenFlag_sp (s : State) (x : Reg) (b : Byte) (f : Bool) : (s.resultThenFlag x b f).sp = s.sp := rfl
@[simp] theorem State.resultThenFlag_dt (s : State) (x : Reg) (b : Byte) (f : Bool) : (s.resultThenFlag x b f).dt = s.dt := rfl
@[simp] theorem State.resultThenFlag_st (s : State) (x : Reg) (b : Byte) (f : Bool) : (s.resultThenFlag x b f).st = s.st := rfl
@[simp] theorem State.resultThenFlag_keys (s : State) (x : Reg) (b : Byte) (f : Bool) : (s.resultThenFlag x b f).keys = s.keys := rfl
@[simp] theorem State.resultThenFlag_fb (s : State) (x : Reg) (b : Byte) (f : Bool) : (s.resultThenFlag x b f).fb = s.fb := rfl
@[simp] theorem State.resultThenFlag_redraw (s : State) (x : Reg) (b : Byte) (f : Bool) : (s.resultThenFlag x b f).redraw = s.redraw := rfl
@[simp] theorem State.resultThenFlag_rng (s : State) (x : Reg) (b : Byte) (f : Bool) : (s.resultThenFlag x b f).rng = s.rng := rfl
@[simp] theorem State.resultThenFlag_mem (s : State) (x : Reg) (b : Byte) (f : Bool) : (s.resultThenFlag x b f).mem = s.mem := rfl
@[simp] theorem State.resultThenFlag_shiftSrc (s : State) (x : Reg) (b : Byte) (f : Bool) : (s.resultThenFlag x b f).shiftSrc = s.shiftSrc := rfl
@[simp] theorem State.resultThenFlag_config (s : State) (x : Reg) (b : Byte) (f : Bool) : (s.resultThenFlag x b f).config = s.config := rfl

/-! ### flagThenResult -/

@[simp] theorem State.flagThenResult_v (s : State) (x : Reg) (b : Byte) (f : Bool) : (s.flagThenResult x b f).v = (s.v.set VF (flagByte f)).set x b := rfl
@[simp] theorem State.flagThenResult_i (s : State) (x : Reg) (b : Byte) (f : Bool) : (s.flagThenResult x b f).i = s.i := rfl
@[simp] theorem State.flagThenResult_pc (s : State) (x : Reg) (b : Byte) (f : Bool) : (s.flagThenResult x b f).pc = s.pc := rfl
@[simp] theorem State.flagThenResult_stack (s : State) (x : Reg) (b : Byte) (f : Bool) : (s.flagThenResult x b f).stack = s.stack := rfl
@[simp] theorem State.flagThenResult_sp (s : State) (x : Reg) (b : Byte) (f : Bool) : (s.flagThenResult x b f).sp = s.sp := rfl
@[simp] theorem State.flagThenResult_dt (s : State) (x : Reg) (b : Byte) (f : Bool) : (s.flagThenResult x b f).dt = s.dt := rfl
@[simp] theorem State.flagThenResult_st (s : State) (x : Reg) (b : Byte) (f : Bool) : (s.flagThenResult x b f).st = s.st := rfl
@[simp] theorem State.flagThenResult_keys (s : State) (x : Reg) (b : Byte) (f : Bool) : (s.flagThenResult x b f).keys = s.keys := rfl
@[simp] theorem State.flagThenResult_fb (s : State) (x : Reg) (b : Byte) (f : Bool) : (s.flagThenResult x b f).fb = s.fb := rfl
@[simp] theorem State.flagThenResult_redraw (s : State) (x : Reg) (b : Byte) (f : Bool) : (s.flagThenResult x b f).redraw = s.redraw := rfl
@[simp] theorem State.flagThenResult_rng (s : State) (x : Reg) (b : Byte) (f : Bool) : (s.flagThenResult x b f).rng = s.rng := rfl
@[simp] theorem State.flagThenResult_mem (s : State) (x : Reg) (b : Byte) (f : Bool) : (s.flagThenResult x b f).mem = s.mem := rfl
@[simp] theorem State.flagThenResult_shiftSrc (s : State) (x : Reg) (b : Byte) (f : Bool) : (s.flagThenResult x b f).shiftSrc = s.shiftSrc := rfl
@[simp] theorem State.flagThenResult_config (s : State) (x : Reg) (b : Byte) (f : Bool) : (s.flagThenResult x b f).config = s.config := rfl

/-! ### skipIf -/

@[simp] theorem State.skipIf_v (s : State) (c : Bool) : (s.skipIf c).v = s.v := by cases c <;> rfl
@[simp] theorem State.skipIf_i (s : State) (c : Bool) : (s.skipIf c).i = s.i := by cases c <;> rfl
@[simp] theorem State.skipIf_pc (s : State) (c : Bool) : (s.skipIf c).pc = if c then s.pc + 2 else s.pc := by
  cases c <;> rfl
@[simp] theorem State.skipIf_stack (s : State) (c : Bool) : (s.skipIf c).stack = s.stack := by cases c <;> rfl
@[simp] theorem State.skipIf_sp (s : State) (c : Bool) : (s.skipIf c).sp = s.sp := by cases c <;> rfl
@[simp] theorem State.skipIf_dt (s : State) (c : Bool) : (s.skipIf c).dt = s.dt := by cases c <;> rfl
@[simp] theorem State.skipIf_st (s : State) (c : Bool) : (s.skipIf c).st = s.st := by cases c <;> rfl
@[simp] theorem State.skipIf_keys (s : State) (c : Bool) : (s.skipIf c).keys = s.keys := by cases c <;> rfl
@[simp] theorem State.skipIf_fb (s : State) (c : Bool) : (s.skipIf c).fb = s.fb := by cases c <;> rfl
@[simp] theorem State.skipIf_redraw (s : State) (c : Bool) : (s.skipIf c).redraw = s.redraw := by cases c <;> rfl
@[simp] theorem State.skipIf_rng (s : State) (c : Bool) : (s.skipIf c).rng = s.rng := by cases c <;> rfl
@[simp] theorem State.skipIf_mem (s : State) (c : Bool) : (s.skipIf c).mem = s.mem := by cases c <;> rfl
@[simp] theorem State.skipIf_shiftSrc (s : State) (c : Bool) : (s.skipIf c).shiftSrc = s.shiftSrc := by cases c <;> rfl
@[simp] theorem State.skipIf_config (s : State) (c : Bool) : (s.skipIf c).config = s.config := by cases c <;> rfl

/-! ### One register after an update -/

theorem State.getV_setV (s : State) (x r : Reg) (b : Byte) : (s.setV x b).getV r = if x = r then b else s.getV r := by
  simp only [State.getV, State.setV_v, Fin.getElem_fin, Vector.getElem_set, Fin.ext_iff]

@[simp] theorem State.getV_setV_self (s : State) (x : Reg) (b : Byte) : (s.setV x b).getV x = b := by
  simp [State.getV_setV]

theorem State.getV_setV_ne (s : State) {x r : Reg} (b : Byte) (h : r ≠ x) : (s.setV x b).getV r = s.getV r := by
  simp [State.getV_setV, Ne.symm h]

@[simp] theorem State.getV_setFlag_VF (s : State) (f : Bool) : (s.setFlag f).getV VF = flagByte f := by
  simp [State.setFlag]

theorem State.getV_setFlag_ne (s : State) {r : Reg} (f : Bool) (h : r ≠ VF) : (s.setFlag f).getV r = s.getV r :=
  s.getV_setV_ne _ h

/-- Registers read alike in two states with the same register file. -/
theorem State.getV_congr {s t : State} (h : s.v = t.v) (r : Reg) : s.getV r = t.getV r := by
  simp [State.getV, h]

/-- Two states are equal when all their registers are. -/
theorem State.v_ext {s t : State} (h : ∀ r : Reg, s.getV r = t.getV r) : s.v = t.v := by
  refine Vector.ext fun k hk => ?_
  simpa [State.getV] using h ⟨k, hk⟩

end Sys2Proof.Machine
end

