-- ==== Sys2Proof/Laws/Ops.lean ====
section
/-! SUPPORT. For each shared operation, once, everything it can do. -/

namespace Sys2Proof.Machine

/-! ### Raising -/

@[simp] theorem raise_ne_next (e : ErrorKind) (s t : State) : raise e s ≠ .next t := by
  cases e <;> simp [raise]

@[simp] theorem raise_ne_refused (e : ErrorKind) (s : State) (r : Refusal) : raise e s ≠ .refused r := by
  cases e <;> simp [raise]

/-- A raised error is the fault of its kind, and the state is the one it was raised in. -/
theorem raise_eq_fault {e : ErrorKind} {s : State} {f : Fault} :
    raise e s = .fault f ↔ f.kind = e ∧ f.after = s := by
  cases e <;> cases f <;> simp [raise, Fault.kind, Fault.after, eq_comm, and_comm]

/-- What can follow a shared operation that may fail. -/
theorem orRaise_eq_next {α : Type} {s t : State} {x : Except ErrorKind α} {go : α → Result} :
    orRaise s x go = .next t ↔ ∃ a, x = .ok a ∧ go a = .next t := by
  cases x <;> simp [orRaise]

theorem orRaise_eq_fault {α : Type} {s : State} {x : Except ErrorKind α} {go : α → Result} {f : Fault} :
    orRaise s x go = .fault f ↔ (∃ e, x = .error e ∧ f.kind = e ∧ f.after = s) ∨ ∃ a, x = .ok a ∧ go a = .fault f := by
  cases x <;> simp [orRaise, raise_eq_fault, eq_comm (a := f.kind)]

theorem orRaise_eq_refused {α : Type} {s : State} {x : Except ErrorKind α} {go : α → Result} {r : Refusal} :
    orRaise s x go = .refused r ↔ ∃ a, x = .ok a ∧ go a = .refused r := by
  cases x <;> simp [orRaise]

@[simp] theorem orRaise_ok {α : Type} (s : State) (a : α) (go : α → Result) : orRaise s (.ok a) go = go a := rfl

@[simp] theorem orRaise_error {α : Type} (s : State) (e : ErrorKind) (go : α → Result) :
    orRaise s (.error e) go = raise e s := rfl

/-! ### Memory -/

theorem State.readByte_congr {s t : State} (hc : s.config = t.config) (hm : s.mem = t.mem) (a : Nat) :
    s.readByte a = t.readByte a := by
  simp [State.readByte, hc, hm]

theorem State.memRead_eq_ok {s : State} {a n : Nat} {b : List Byte} :
    s.memRead a n = .ok b ↔ a + n ≤ 4096 ∧ b = Memory.readList s.config s.mem a n := by
  unfold State.memRead memSize
  split <;> simp [eq_comm] <;> omega

theorem State.memRead_eq_error {s : State} {a n : Nat} {e : ErrorKind} :
    s.memRead a n = .error e ↔ 4096 < a + n ∧ e = .illegalAddress := by
  unfold State.memRead memSize
  split <;> simp [eq_comm] <;> omega

theorem State.memWrite_eq_ok {s t : State} {a : Nat} {b : List Byte} :
    s.memWrite a b = .ok t ↔ a + b.length ≤ 4096 ∧ t = s.setMem (Memory.writeList s.config s.mem a b) := by
  unfold State.memWrite memSize
  split <;> simp [eq_comm] <;> omega

theorem State.memWrite_eq_error {s : State} {a : Nat} {b : List Byte} {e : ErrorKind} :
    s.memWrite a b = .error e ↔ 4096 < a + b.length ∧ e = .illegalAddress := by
  unfold State.memWrite memSize
  split <;> simp [eq_comm] <;> omega

theorem State.fetch_eq_ok {s : State} {w : Word} :
    s.fetch = .ok w ↔ s.pc.toNat + 2 ≤ 4096 ∧
      w = wordOfBytes (s.readByte s.pc.toNat) (s.readByte (s.pc.toNat + 1)) := by
  unfold State.fetch memSize
  split <;> simp [eq_comm] <;> omega

theorem State.fetch_eq_error {s : State} {e : ErrorKind} :
    s.fetch = .error e ↔ 4096 < s.pc.toNat + 2 ∧ e = .illegalAddress := by
  unfold State.fetch memSize
  split <;> simp [eq_comm] <;> omega

/-- The fetch is MemRead(pc, 2), first byte high (20_memory.md R55, R56). -/
theorem State.fetch_eq_memRead (s : State) :
    s.fetch = (s.memRead s.pc.toNat 2).map fun b => wordOfBytes (b.getD 0 0) (b.getD 1 0) := by
  unfold State.fetch State.memRead
  split <;> rfl

/-- Bytes after a store: the stored ones in order, what was there everywhere else. -/
theorem State.readByte_memWrite {s t : State} {a : Nat} {b : List Byte} (hm : Memory.wf s.config s.mem = true)
    (h : s.memWrite a b = .ok t) (a' : Nat) :
    t.readByte a' = if a ≤ a' ∧ a' < a + b.length then b.getD (a' - a) 0 else s.readByte a' := by
  obtain ⟨hle, rfl⟩ := State.memWrite_eq_ok.1 h
  exact Memory.read_writeList a' hm hle

/-! ### The stack -/

theorem State.push_eq_ok {s t : State} {w : Word} :
    s.push w = .ok t ↔ ∃ h : s.sp.val < 16, t = s.setStack (s.stack.set s.sp.val w) ⟨s.sp.val + 1, by omega⟩ := by
  unfold State.push
  split <;> simp_all [eq_comm]

theorem State.push_eq_error {s : State} {w : Word} {e : ErrorKind} :
    s.push w = .error e ↔ s.sp.val = 16 ∧ e = .stackOverflow := by
  have := s.sp.isLt
  unfold State.push
  split <;> simp [eq_comm] <;> omega

theorem State.pop_eq_ok {s : State} {r : Word × State} :
    s.pop = .ok r ↔ ∃ _ : 0 < s.sp.val,
      r = (s.stack[s.sp.val - 1], s.setStack s.stack ⟨s.sp.val - 1, by omega⟩) := by
  unfold State.pop
  split <;> simp_all [eq_comm]

theorem State.pop_eq_error {s : State} {e : ErrorKind} :
    s.pop = .error e ↔ s.sp.val = 0 ∧ e = .stackUnderflow := by
  unfold State.pop
  split <;> simp [eq_comm] <;> omega

/-! ### Keys -/

theorem State.keyNamedBy_eq_ok {s : State} {x : Reg} {b : Bool} :
    s.keyNamedBy x = .ok b ↔ ∃ h : (s.getV x).toNat < 16, s.keys[(s.getV x).toNat] = b := by
  unfold State.keyNamedBy
  simp only
  split <;> simp_all

theorem State.keyNamedBy_eq_error {s : State} {x : Reg} {e : ErrorKind} :
    s.keyNamedBy x = .error e ↔ 15 < (s.getV x).toNat ∧ e = .illegalKey := by
  unfold State.keyNamedBy
  simp only
  split <;> simp [eq_comm] <;> omega

theorem State.lowestKey?_eq_none {s : State} : s.lowestKey? = none ↔ ∀ k : Fin 16, s.keys[k] = false := by
  simp only [State.lowestKey?, List.findIdx?_eq_none_iff, id]
  constructor
  · intro h k
    exact h _ (by simp [Vector.mem_toList_iff])
  · intro h b hb
    rw [Vector.mem_toList_iff, Vector.mem_iff_getElem] at hb
    obtain ⟨i, hi, rfl⟩ := hb
    exact h ⟨i, hi⟩

theorem State.lowestKey?_eq_some {s : State} {k : Nat} :
    s.lowestKey? = some k ↔ ∃ h : k < 16, s.keys[k] = true ∧ ∀ j (hj : j < k), s.keys[j] = false := by
  simp only [State.lowestKey?, List.findIdx?_eq_some_iff_getElem]
  simp

/-! ### Registers as a list -/

theorem writeRegs_getElem (v : Vector Byte 16) (k : Nat) (b : List Byte) (r : Nat) (hr : r < 16) :
    (writeRegs v k b)[r] = if k ≤ r ∧ r < k + b.length then b.getD (r - k) 0 else v[r] := by
  induction b generalizing v k with
  | nil =>
    have : ¬(k ≤ r ∧ r < k + ([] : List Byte).length) := by simp
    rw [if_neg this]; rfl
  | cons x rest ih =>
    rw [writeRegs, ih, Vector.getElem_setIfInBounds hr]
    simp only [List.length_cons]
    by_cases h0 : k = r
    · subst h0
      have h1 : ¬(k + 1 ≤ k ∧ k < k + 1 + rest.length) := by omega
      have h2 : k ≤ k ∧ k < k + (rest.length + 1) := by omega
      rw [if_neg h1, if_pos rfl, if_pos h2]; simp
    · by_cases h1 : k + 1 ≤ r ∧ r < k + 1 + rest.length
      · have h2 : k ≤ r ∧ r < k + (rest.length + 1) := by omega
        rw [if_pos h1, if_pos h2]
        obtain ⟨d, hd⟩ : ∃ d, r = k + 1 + d := ⟨r - (k + 1), by omega⟩
        have e1 : r - (k + 1) = d := by omega
        have e2 : r - k = d + 1 := by omega
        rw [e1, e2]; simp
      · have h2 : ¬(k ≤ r ∧ r < k + (rest.length + 1)) := by omega
        rw [if_neg h1, if_neg h0, if_neg h2]

@[simp] theorem State.length_regsUpTo (s : State) (x : Reg) : (s.regsUpTo x).length = x.val + 1 := by
  simp [State.regsUpTo]

theorem State.getD_regsUpTo (s : State) (x : Reg) (r : Reg) (h : r.val ≤ x.val) :
    (s.regsUpTo x).getD r.val 0 = s.getV r := by
  have hr := r.isLt
  simp [State.regsUpTo, State.getV, List.getD_eq_getElem?_getD, Nat.lt_succ_of_le h]

@[simp] theorem length_decimalDigits (t : Byte) : (decimalDigits t).length = 3 := rfl

/-- Every 4-bit register number passes the register file's check (30_encoding.md R77). -/
@[simp] theorem registerPort_reg (r : Reg) : registerPort r.val = .ok r := by
  simp [registerPort]

/-! ### The step -/

/-- What a step can be: the fetch fails, no pattern matches, or the decoded instruction runs (30_encoding.md R72). -/
theorem step_cases (s : State) :
    (4096 < s.pc.toNat + 2 ∧ step s = .fault (.illegalAddress s)) ∨
    (∃ w, s.fetch = .ok w ∧ decode? w = none ∧ step s = .fault (.illegalInstruction w s.advance)) ∨
    (∃ w i, s.fetch = .ok w ∧ decode w = .ok i ∧ step s = exec i s.advance) := by
  unfold step
  cases hf : s.fetch with
  | error e =>
    obtain ⟨h, rfl⟩ := State.fetch_eq_error.1 hf
    exact .inl ⟨h, rfl⟩
  | ok w =>
    simp only
    cases hd : decode w with
    | error e => exact .inr (.inl ⟨w, rfl, (decode_eq_error.1 hd).1, rfl⟩)
    | ok i => exact .inr (.inr ⟨w, i, rfl, hd, rfl⟩)

end Sys2Proof.Machine
end

