-- ==== Sys2Proof/Laws/PerInstr.lean ====
section
/-! SUPPORT. Statements made for every instruction, one lemma per constructor. -/

namespace Sys2Proof.Laws

/-- The word of an instruction, masked by its row of the opcode table, is the row's match (30_encoding.md R74): the encoder puts
every fixed bit where the table has it. -/
def EncodesRow.Statement (i : Instr) : Prop := encode i &&& i.row.mask = i.row.bits

/-! ### A masked word of each format -/

theorem formatNNN_and (a m : BitVec 4) (nnn k : Addr) :
    formatNNN a nnn &&& formatNNN m k = formatNNN (a &&& m) (nnn &&& k) := by
  refine BitVec.eq_of_getLsbD_eq fun j _ => ?_
  simp only [formatNNN, BitVec.getLsbD_and, BitVec.getLsbD_append]
  split <;> rfl

theorem formatXNN_and (a m : BitVec 4) (x z : Reg) (nn k : Byte) :
    formatXNN a x nn &&& formatXNN m z k = formatXNN (a &&& m) (regBits x &&& regBits z).toFin (nn &&& k) := by
  refine BitVec.eq_of_getLsbD_eq fun j _ => ?_
  simp only [formatXNN, regBits, BitVec.getLsbD_and, BitVec.getLsbD_append, BitVec.ofFin_toFin]
  split
  · rfl
  · split <;> rfl

theorem formatXYN_and (a m : BitVec 4) (x y z u : Reg) (n k : BitVec 4) :
    formatXYN a x y n &&& formatXYN m z u k =
      formatXYN (a &&& m) (regBits x &&& regBits z).toFin (regBits y &&& regBits u).toFin (n &&& k) := by
  refine BitVec.eq_of_getLsbD_eq fun j _ => ?_
  simp only [formatXYN, regBits, BitVec.getLsbD_and, BitVec.getLsbD_append, BitVec.ofFin_toFin]
  split
  · rfl
  · split
    · rfl
    · split <;> rfl

/-- Mask F000 keeps the major opcode of format NNN. -/
theorem mask_formatNNN (a : BitVec 4) (nnn : Addr) : formatNNN a nnn &&& 0xF000#16 = formatNNN a 0#12 := by
  have e : (0xF000#16 : Word) = formatNNN 0xF#4 0#12 := by decide
  rw [e, formatNNN_and, BitVec.and_zero]
  exact congrArg (formatNNN · 0#12) BitVec.and_allOnes

/-- Mask F000 keeps the major opcode of format XNN. -/
theorem mask_formatXNN (a : BitVec 4) (x : Reg) (nn : Byte) : formatXNN a x nn &&& 0xF000#16 = formatXNN a 0 0#8 := by
  have e : (0xF000#16 : Word) = formatXNN 0xF#4 0 0#8 := by decide
  have h : (regBits x &&& regBits 0).toFin = 0 := congrArg BitVec.toFin (BitVec.and_zero (x := regBits x))
  rw [e, formatXNN_and, BitVec.and_zero, h]
  exact congrArg (formatXNN · 0 0#8) BitVec.and_allOnes

/-- Mask F0FF keeps the major opcode and `nn` of format X. -/
theorem mask_formatX (a : BitVec 4) (x : Reg) (nn : Byte) : formatXNN a x nn &&& 0xF0FF#16 = formatXNN a 0 nn := by
  have e : (0xF0FF#16 : Word) = formatXNN 0xF#4 0 0xFF#8 := by decide
  have h : (regBits x &&& regBits 0).toFin = 0 := congrArg BitVec.toFin (BitVec.and_zero (x := regBits x))
  rw [e, formatXNN_and, h]
  exact congrArg₂ (formatXNN · 0 ·) BitVec.and_allOnes BitVec.and_allOnes

/-- Mask F00F keeps the major opcode and `n` of format XY. -/
theorem mask_formatXY (a : BitVec 4) (x y : Reg) (n : BitVec 4) : formatXYN a x y n &&& 0xF00F#16 = formatXYN a 0 0 n := by
  have e : (0xF00F#16 : Word) = formatXYN 0xF#4 0 0 0xF#4 := by decide
  have h (z : Reg) : (regBits z &&& regBits 0).toFin = 0 := congrArg BitVec.toFin (BitVec.and_zero (x := regBits z))
  rw [e, formatXYN_and, h, h]
  exact congrArg₂ (formatXYN · 0 0 ·) BitVec.and_allOnes BitVec.and_allOnes

/-- Mask F000 keeps the major opcode of format XYN. -/
theorem mask_formatXYN (a : BitVec 4) (x y : Reg) (n : BitVec 4) : formatXYN a x y n &&& 0xF000#16 = formatXYN a 0 0 0#4 := by
  have e : (0xF000#16 : Word) = formatXYN 0xF#4 0 0 0#4 := by decide
  have h (z : Reg) : (regBits z &&& regBits 0).toFin = 0 := congrArg BitVec.toFin (BitVec.and_zero (x := regBits z))
  rw [e, formatXYN_and, h, h, BitVec.and_zero]
  exact congrArg (formatXYN · 0 0 0#4) BitVec.and_allOnes

/-! ### One lemma per instruction -/

theorem EncodesRow.cls : EncodesRow.Statement .cls := by unfold EncodesRow.Statement; decide

theorem EncodesRow.ret : EncodesRow.Statement .ret := by unfold EncodesRow.Statement; decide

theorem EncodesRow.sys (nnn : Addr) : EncodesRow.Statement (.sys nnn) := mask_formatNNN 0x0#4 nnn

theorem EncodesRow.jp (nnn : Addr) : EncodesRow.Statement (.jp nnn) := mask_formatNNN 0x1#4 nnn

theorem EncodesRow.call (nnn : Addr) : EncodesRow.Statement (.call nnn) := mask_formatNNN 0x2#4 nnn

theorem EncodesRow.ldI (nnn : Addr) : EncodesRow.Statement (.ldI nnn) := mask_formatNNN 0xA#4 nnn

theorem EncodesRow.jpV0 (nnn : Addr) : EncodesRow.Statement (.jpV0 nnn) := mask_formatNNN 0xB#4 nnn

theorem EncodesRow.seImm (x : Reg) (nn : Byte) : EncodesRow.Statement (.seImm x nn) := mask_formatXNN 0x3#4 x nn

theorem EncodesRow.sneImm (x : Reg) (nn : Byte) : EncodesRow.Statement (.sneImm x nn) := mask_formatXNN 0x4#4 x nn

theorem EncodesRow.ldImm (x : Reg) (nn : Byte) : EncodesRow.Statement (.ldImm x nn) := mask_formatXNN 0x6#4 x nn

theorem EncodesRow.addImm (x : Reg) (nn : Byte) : EncodesRow.Statement (.addImm x nn) := mask_formatXNN 0x7#4 x nn

theorem EncodesRow.rnd (x : Reg) (nn : Byte) : EncodesRow.Statement (.rnd x nn) := mask_formatXNN 0xC#4 x nn

theorem EncodesRow.seReg (x y : Reg) : EncodesRow.Statement (.seReg x y) := mask_formatXY 0x5#4 x y 0x0#4

theorem EncodesRow.ldReg (x y : Reg) : EncodesRow.Statement (.ldReg x y) := mask_formatXY 0x8#4 x y 0x0#4

theorem EncodesRow.orReg (x y : Reg) : EncodesRow.Statement (.orReg x y) := mask_formatXY 0x8#4 x y 0x1#4

theorem EncodesRow.andReg (x y : Reg) : EncodesRow.Statement (.andReg x y) := mask_formatXY 0x8#4 x y 0x2#4

theorem EncodesRow.xorReg (x y : Reg) : EncodesRow.Statement (.xorReg x y) := mask_formatXY 0x8#4 x y 0x3#4

theorem EncodesRow.addReg (x y : Reg) : EncodesRow.Statement (.addReg x y) := mask_formatXY 0x8#4 x y 0x4#4

theorem EncodesRow.subReg (x y : Reg) : EncodesRow.Statement (.subReg x y) := mask_formatXY 0x8#4 x y 0x5#4

theorem EncodesRow.shr (x y : Reg) : EncodesRow.Statement (.shr x y) := mask_formatXY 0x8#4 x y 0x6#4

theorem EncodesRow.subnReg (x y : Reg) : EncodesRow.Statement (.subnReg x y) := mask_formatXY 0x8#4 x y 0x7#4

theorem EncodesRow.shl (x y : Reg) : EncodesRow.Statement (.shl x y) := mask_formatXY 0x8#4 x y 0xE#4

theorem EncodesRow.sneReg (x y : Reg) : EncodesRow.Statement (.sneReg x y) := mask_formatXY 0x9#4 x y 0x0#4

theorem EncodesRow.drw (x y : Reg) (n : Nibble) : EncodesRow.Statement (.drw x y n) := mask_formatXYN 0xD#4 x y n

theorem EncodesRow.skp (x : Reg) : EncodesRow.Statement (.skp x) := mask_formatX 0xE#4 x 0x9E#8

theorem EncodesRow.sknp (x : Reg) : EncodesRow.Statement (.sknp x) := mask_formatX 0xE#4 x 0xA1#8

theorem EncodesRow.ldVxDT (x : Reg) : EncodesRow.Statement (.ldVxDT x) := mask_formatX 0xF#4 x 0x07#8

theorem EncodesRow.ldVxK (x : Reg) : EncodesRow.Statement (.ldVxK x) := mask_formatX 0xF#4 x 0x0A#8

theorem EncodesRow.ldDTVx (x : Reg) : EncodesRow.Statement (.ldDTVx x) := mask_formatX 0xF#4 x 0x15#8

theorem EncodesRow.ldSTVx (x : Reg) : EncodesRow.Statement (.ldSTVx x) := mask_formatX 0xF#4 x 0x18#8

theorem EncodesRow.addI (x : Reg) : EncodesRow.Statement (.addI x) := mask_formatX 0xF#4 x 0x1E#8

theorem EncodesRow.ldF (x : Reg) : EncodesRow.Statement (.ldF x) := mask_formatX 0xF#4 x 0x29#8

theorem EncodesRow.ldB (x : Reg) : EncodesRow.Statement (.ldB x) := mask_formatX 0xF#4 x 0x33#8

theorem EncodesRow.store (x : Reg) : EncodesRow.Statement (.store x) := mask_formatX 0xF#4 x 0x55#8

theorem EncodesRow.load (x : Reg) : EncodesRow.Statement (.load x) := mask_formatX 0xF#4 x 0x65#8

end Sys2Proof.Laws
end

