-- ==== Sys2Proof/Tests/Slice0.lean ====
section
/-! SUPPORT. Small tests. Every expected value is a vector of 95_test_vectors.md (named in the comment), the table of
30_encoding.md R74, or a hand calculation from the rule named. The last part shows, for every statement with hypotheses, concrete
inputs that meet them. -/

namespace Sys2Proof.Tests

open Sys2Proof.Machine

/-! ### Helpers -/

/-- The next state of one STEP, if it returns Ok. -/
def after (s : State) : Option State :=
  match step s with
  | .next t => some t
  | .fault _ => none
  | .refused _ => none

/-- The error of one STEP and the state it leaves. -/
def errorOf (s : State) : Option (ErrorKind × State) :=
  match step s with
  | .next _ => none
  | .fault f => some (f.kind, f.after)
  | .refused _ => none

/-- The start state of the vectors: reset, changed by `f`, with a word at 0x200. -/
def start (w : Nat) (f : State → State) : State := (f State.reset).withFetchWord 16 w

/-- Some bytes stored from an address. -/
def poke (a : Nat) (bytes : List Byte) (s : State) : State := s.setMem (Memory.writeList s.config s.mem a bytes)

/-- The keys of a list pressed. -/
def press (ks : List Nat) (s : State) : State := s.setKeys (Vector.ofFn fun k => ks.contains k.val)

/-- A stack of sixteen times one word with `n` entries in use. -/
def stacked (w : Word) (n : Fin 17) (s : State) : State := s.setStack (Vector.replicate 16 w) n

/-- A framebuffer with one byte set. -/
def lit (k : Nat) (b : Byte) (s : State) : State := s.setFb (s.fb.setIfInBounds k b)

/-! ### Well-formedness: each check refuses an ill-formed term -/

theorem test_wf_sys_00E0_refused : (Instr.sys 0x0E0#12).wellFormed = false := by decide
theorem test_wf_sys_00EE_refused : (Instr.sys 0x0EE#12).wellFormed = false := by decide
theorem test_wf_sys_00E1 : (Instr.sys 0x0E1#12).wellFormed = true := by decide

/-! ### Decoding: words written out from the table of R74 -/

theorem test_decode_flow : decode? 0b0000000011100000#16 = some .cls ∧ decode? 0b0000000011101110#16 = some .ret ∧
    decode? 0b0000000100100011#16 = some (.sys 0x123#12) ∧ decode? 0b0001101010111100#16 = some (.jp 0xABC#12) ∧
    decode? 0b0010001011110110#16 = some (.call 0x2F6#12) ∧ decode? 0b1011001100000001#16 = some (.jpV0 0x301#12) := by decide
theorem test_decode_skip : decode? 0b0011000101000100#16 = some (.seImm 1 0x44#8) ∧
    decode? 0b0100001010000001#16 = some (.sneImm 2 0x81#8) ∧ decode? 0b0101000100100000#16 = some (.seReg 1 2) ∧
    decode? 0b1001001111010000#16 = some (.sneReg 3 13) := by decide
theorem test_decode_alu_immediate : decode? 0b0110101001111111#16 = some (.ldImm 10 0x7F#8) ∧
    decode? 0b0111000100000010#16 = some (.addImm 1 0x02#8) := by decide
theorem test_decode_alu : decode? 0b1000000100100000#16 = some (.ldReg 1 2) ∧ decode? 0b1000000100100001#16 = some (.orReg 1 2) ∧
    decode? 0b1000000100100010#16 = some (.andReg 1 2) ∧ decode? 0b1000000100100011#16 = some (.xorReg 1 2) ∧
    decode? 0b1000101010110100#16 = some (.addReg 10 11) ∧ decode? 0b1000000100100101#16 = some (.subReg 1 2) ∧
    decode? 0b1000000100100110#16 = some (.shr 1 2) ∧ decode? 0b1000000100100111#16 = some (.subnReg 1 2) ∧
    decode? 0b1000000100101110#16 = some (.shl 1 2) := by decide
theorem test_decode_index : decode? 0b1010001000101010#16 = some (.ldI 0x22A#12) ∧ decode? 0b1111000100011110#16 = some (.addI 1) ∧
    decode? 0b1111001100101001#16 = some (.ldF 3) ∧ decode? 0b1111000100110011#16 = some (.ldB 1) ∧
    decode? 0b1111001001010101#16 = some (.store 2) ∧ decode? 0b1111110001100101#16 = some (.load 12) := by decide
theorem test_decode_random_display : decode? 0b1100000000001111#16 = some (.rnd 0 0x0F#8) ∧
    decode? 0b1101000000011111#16 = some (.drw 0 1 0xF#4) := by decide
theorem test_decode_keypad_timers : decode? 0b1110000110011110#16 = some (.skp 1) ∧ decode? 0b1110010110100001#16 = some (.sknp 5) ∧
    decode? 0b1111001100001010#16 = some (.ldVxK 3) ∧ decode? 0b1111001000000111#16 = some (.ldVxDT 2) ∧
    decode? 0b1111000100010101#16 = some (.ldDTVx 1) ∧ decode? 0b1111000100011000#16 = some (.ldSTVx 1) := by decide
/-- V30.9 -/
theorem test_decode_illegal : ([0x5011#16, 0x500F#16, 0x8008#16, 0x800D#16, 0x800F#16, 0x8FFF#16, 0x9001#16, 0x912F#16] ++
    [0xE000#16, 0xE09F#16, 0xE0A0#16, 0xE19D#16, 0xF000#16, 0xF008#16, 0xF01F#16, 0xF030#16, 0xF056#16, 0xF066#16] ++
    [0xF075#16, 0xF085#16, 0xFFFF#16]).all fun w => decide (decode? w = none) := by decide
/-- Memory holds the first byte high (V30.3), and a cut word is refused (R70). -/
theorem test_decode_bytes : (decodeBytes [0x12#8, 0x34#8]).toOption = some (.jp 0x234#12, []) ∧
    (decodeBytes [0x12#8]).toOption = none := by decide
theorem test_encode : encode (.drw 0 1 0xF#4) = 0xD01F#16 ∧ encode (.addReg 10 11) = 0x8AB4#16 ∧
    encodeBytes (.ldI 0x22A#12) = [0xA2#8, 0x2A#8] := by decide

/-! ### Reset and fetch -/

theorem test_reset_memory_canonical : Memory.wf State.reset.config State.reset.mem = true := by decide
/-- V70.2 -/
theorem test_reset_font : (List.range 7).map (fun k => State.reset.readByte (0x4F + k)) =
      [0x00#8, 0xF0#8, 0x90#8, 0x90#8, 0x90#8, 0xF0#8, 0x20#8] ∧
    (List.range 6).map (fun k => State.reset.readByte (0x9B + k)) = [0xF0#8, 0x80#8, 0xF0#8, 0x80#8, 0x80#8, 0x00#8] := by decide
/-- V49.12, its first step -/
theorem test_reset_steps_over_zeroed_memory : (after State.reset) = some (State.reset.setPc 0x202#16) := rfl
/-- V30.5, V30.6 -/
theorem test_fetch_bounds : (after ((State.reset.setPc 0x0FFE#16).withFetchWord 16 0x6007)).map (fun t => (t.getV 0, t.pc)) =
      some (0x07#8, 0x1000#16) ∧
    errorOf (State.reset.setPc 0x0FFF#16) = some (.illegalAddress, State.reset.setPc 0x0FFF#16) := ⟨by decide, rfl⟩
/-- V30.7: an odd pc -/
theorem test_fetch_odd : (after ((State.reset.setPc 0x201#16).withFetchWord 16 0x6105)).map (fun t => (t.getV 1, t.pc)) =
    some (0x05#8, 0x203#16) := by decide
/-- V60.1 -/
theorem test_illegal_instruction : errorOf (start 0x5011 id) = some (.illegalInstruction 0x5011#16, (start 0x5011 id).setPc 0x202#16) := rfl

/-! ### Control transfer: V40 -/

/-- V40.10 -/
theorem test_sys : after (start 0x0123 id) = some ((start 0x0123 id).setPc 0x202#16) := rfl
/-- V40.1 -/
theorem test_jp : (after (start 0x1ABC id)).map (fun t => (t.pc, t.sp)) = some (0x0ABC#16, 0) := by decide
/-- V40.6 -/
theorem test_call_last_entry : (after (start 0x2300 (stacked 0x111#16 15))).map (fun t => (t.pc, t.sp, t.stack[15], t.stack[14])) =
    some (0x300#16, 16, 0x202#16, 0x111#16) := by decide
/-- V40.7 -/
theorem test_call_overflow : errorOf (start 0x2300 (stacked 0x111#16 16)) =
    some (.stackOverflow, (start 0x2300 (stacked 0x111#16 16)).setPc 0x202#16) := rfl
/-- V40.4 -/
theorem test_ret : (after (start 0x00EE (stacked 0x345#16 1))).map (fun t => (t.pc, t.sp, t.stack[0])) =
    some (0x345#16, 0, 0x345#16) := by decide
/-- V40.5 -/
theorem test_ret_underflow : errorOf (start 0x00EE id) = some (.stackUnderflow, (start 0x00EE id).setPc 0x202#16) := rfl
/-- V40.9 -/
theorem test_jpV0 : (after (start 0xBFFF (·.setV 0 0xFF#8))).map (·.pc) = some 0x10FE#16 := by decide

/-! ### Skips: V41 -/

/-- V41.1, V41.2 -/
theorem test_seImm : (after (start 0x3144 (·.setV 1 0x44#8))).map (·.pc) = some 0x204#16 ∧
    (after (start 0x3144 (·.setV 1 0x45#8))).map (·.pc) = some 0x202#16 := by decide
/-- V41.3, V41.4 -/
theorem test_sneImm : (after (start 0x4144 (·.setV 1 0x44#8))).map (·.pc) = some 0x202#16 ∧
    (after (start 0x4144 (·.setV 1 0x45#8))).map (·.pc) = some 0x204#16 := by decide
/-- V41.5, V41.6 -/
theorem test_seReg : (after (start 0x5120 fun s => (s.setV 1 7).setV 2 7)).map (·.pc) = some 0x204#16 ∧
    (after (start 0x5120 fun s => (s.setV 1 7).setV 2 8)).map (·.pc) = some 0x202#16 := by decide
/-- V41.8, V41.9 -/
theorem test_sneReg : (after (start 0x9120 fun s => (s.setV 1 7).setV 2 7)).map (·.pc) = some 0x202#16 ∧
    (after (start 0x9120 fun s => (s.setV 1 7).setV 2 8)).map (·.pc) = some 0x204#16 := by decide

/-! ### Register load and ALU: V42 -/

/-- V42.1 -/
theorem test_ldImm : (after (start 0x6A7F id)).map (fun t => (t.getV 10, t.pc)) = some (0x7F#8, 0x202#16) := by decide
/-- V42.3 -/
theorem test_addImm_wraps : (after (start 0x7102 fun s => (s.setV 1 0xFF#8).setV 15 7)).map (fun t => (t.getV 1, t.getV 15)) =
    some (0x01#8, 0x07#8) := by decide
/-- V42.6 -/
theorem test_ldReg : (after (start 0x8120 (·.setV 2 0x5A#8))).map (fun t => (t.getV 1, t.getV 2)) = some (0x5A#8, 0x5A#8) := by decide
/-- V42.7 -/
theorem test_orReg : (after (start 0x8121 fun s => ((s.setV 1 0x0F#8).setV 2 0xF1#8).setV 15 9)).map (fun t => (t.getV 1, t.getV 15)) =
    some (0xFF#8, 9#8) := by decide
/-- V42.8 -/
theorem test_andReg : (after (start 0x8122 fun s => ((s.setV 1 0x3C#8).setV 2 0x0F#8).setV 15 9)).map (fun t => (t.getV 1, t.getV 15)) =
    some (0x0C#8, 9#8) := by decide
/-- V42.9 -/
theorem test_xorReg : (after (start 0x8123 fun s => ((s.setV 1 0xFF#8).setV 2 0x0F#8).setV 15 9)).map (fun t => (t.getV 1, t.getV 15)) =
    some (0xF0#8, 9#8) := by decide
/-- V42.14, V42.15 -/
theorem test_addReg_carry :
    (after (start 0x8124 fun s => (s.setV 1 0xFF#8).setV 2 0xFF#8)).map (fun t => (t.getV 1, t.getV 15)) = some (0xFE#8, 1#8) ∧
    (after (start 0x8124 fun s => ((s.setV 1 0xFE#8).setV 2 1).setV 15 1)).map (fun t => (t.getV 1, t.getV 15)) =
      some (0xFF#8, 0#8) := by decide
/-- V42.17: the flag is written last -/
theorem test_addReg_VF : (after (start 0x8F14 fun s => (s.setV 15 0xF0#8).setV 1 0x20#8)).map (·.getV 15) = some 1#8 := by decide
/-- V42.20, V42.21 -/
theorem test_subReg : (after (start 0x8125 fun s => ((s.setV 1 5).setV 2 3).setV 15 1)).map (fun t => (t.getV 1, t.getV 15)) =
      some (2#8, 0#8) ∧
    (after (start 0x8125 fun s => (s.setV 1 3).setV 2 5)).map (fun t => (t.getV 1, t.getV 15)) = some (0xFE#8, 1#8) := by decide
/-- V42.22: equal operands do not borrow -/
theorem test_subReg_equal : (after (start 0x8125 fun s => ((s.setV 1 7).setV 2 7).setV 15 1)).map (fun t => (t.getV 1, t.getV 15)) =
    some (0#8, 0#8) := by decide
/-- V42.26, V42.27 -/
theorem test_subnReg : (after (start 0x8127 fun s => ((s.setV 1 3).setV 2 5).setV 15 1)).map (fun t => (t.getV 1, t.getV 15)) =
      some (2#8, 0#8) ∧
    (after (start 0x8127 fun s => (s.setV 1 5).setV 2 3)).map (fun t => (t.getV 1, t.getV 15)) = some (0xFE#8, 1#8) := by decide
/-- V42.38, both settings of the toggle -/
theorem test_shr : (after (start 0x8126 fun s => (s.setV 1 0x03#8).setV 2 0x84#8)).map (fun t => (t.getV 1, t.getV 15)) =
      some (0x42#8, 0#8) ∧
    (after (start 0x8126 fun s => ((s.setV 1 0x03#8).setV 2 0x84#8).setShiftSrc .vx)).map (fun t => (t.getV 1, t.getV 15)) =
      some (0x01#8, 1#8) := by decide
/-- V42.43: the result is written last -/
theorem test_shr_VF : (after (start 0x8F26 fun s => (s.setV 15 7).setV 2 5)).map (·.getV 15) = some 2#8 := by decide
/-- V42.39, both settings of the toggle -/
theorem test_shl : (after (start 0x812E fun s => (s.setV 1 0x03#8).setV 2 0x84#8)).map (fun t => (t.getV 1, t.getV 15)) =
      some (0x08#8, 1#8) ∧
    (after (start 0x812E fun s => ((s.setV 1 0x03#8).setV 2 0x84#8).setShiftSrc .vx)).map (fun t => (t.getV 1, t.getV 15)) =
      some (0x06#8, 0#8) := by decide
/-- V42.44: the result is written last -/
theorem test_shl_VF : (after (start 0x8F2E fun s => (s.setV 15 0x41#8).setV 2 0x81#8)).map (·.getV 15) = some 2#8 := by decide

/-! ### Index register and memory transfer: V43 -/

/-- V43.2 -/
theorem test_ldI : (after (start 0xAFFF id)).map (·.i) = some 0x0FFF#16 := by decide
/-- V43.4 -/
theorem test_addI_wraps : (after (start 0xF11E fun s => (s.setI 0xFFFF#16).setV 1 2)).map (fun t => (t.i, t.getV 15)) =
    some (0x0001#16, 0#8) := by decide
/-- V43.10 -/
theorem test_ldF : (after (start 0xF329 (·.setV 3 0xFF#8))).map (·.i) = some 0x014F#16 := by decide
/-- V43.18 -/
theorem test_ldB : (after (start 0xF133 fun s => poke 0x300 [0xEE#8, 0xEE#8, 0xEE#8] ((s.setI 0x300#16).setV 1 234))).map
    (fun t => (t.readByte 0x300, t.readByte 0x301, t.readByte 0x302, t.i)) = some (2#8, 3#8, 4#8, 0x300#16) := by decide
/-- V43.21 -/
theorem test_ldB_past_the_end : errorOf (start 0xF133 fun s => (s.setI 4094#16).setV 1 123) =
    some (.illegalAddress, (start 0xF133 fun s => (s.setI 4094#16).setV 1 123).setPc 0x202#16) := rfl
/-- V43.24 -/
theorem test_store : (after (start 0xF255 fun s => (((s.setV 0 0x11#8).setV 1 0x22#8).setV 2 0x33#8).setI 0x300#16)).map
    (fun t => (t.readByte 0x300, t.readByte 0x302, t.readByte 0x303, t.i)) = some (0x11#8, 0x33#8, 0#8, 0x300#16) := by decide
/-- V43.28 -/
theorem test_store_past_the_end : (errorOf (start 0xF055 fun s => (s.setI 4096#16).setV 0 0x77#8)).map (·.1) = some .illegalAddress := by
  decide
/-- V43.29 -/
theorem test_load : (after (start 0xF265 fun s => poke 0x300 [9#8, 8#8, 7#8, 6#8] ((s.setI 0x300#16).setV 3 0x55#8))).map
    (fun t => (t.getV 0, t.getV 1, t.getV 2, t.getV 3)) = some (9#8, 8#8, 7#8, 0x55#8) := by decide
/-- V43.31 -/
theorem test_load_past_the_end : (errorOf (start 0xFF65 fun s => (s.setI 4081#16).setV 0 1)).map (fun e => (e.1, e.2.getV 0)) =
    some (.illegalAddress, 1#8) := by decide

/-! ### Random: V44 -/

/-- V44.2, the four states -/
theorem test_xorshift : xorshift 0x12345678#32 = 0x87985AA5#32 ∧ xorshift 0x87985AA5#32 = 0x155B24A3#32 ∧
    xorshift 0x155B24A3#32 = 0x4820F4C4#32 ∧ xorshift 0x4820F4C4#32 = 0x81B3AC98#32 := by decide
/-- V44.7 -/
theorem test_rnd : (after (start 0xC00F id)).map (fun t => (t.getV 0, t.rng)) = some (0x01#8, 0x00042021#32) := by decide
/-- S3b -/
theorem test_rnd_mask_zero : (after (start 0xC500 fun s => (s.setV 5 0x99#8).setRng 0xFFFFFFFF#32)).map
    (fun t => (t.getV 5, t.rng)) = some (0#8, 0x0003E01F#32) := by decide

/-! ### Display: V45, S2 -/

/-- V45.22 -/
theorem test_cls : (after (start 0x00E0 fun s => lit 65 0x0F#8 (lit 255 1 s))).map (fun t => (t.fb[65], t.fb[255], t.redraw)) =
    some (0#8, 0#8, true) := by decide +kernel
/-- V45.3: clipped at the right edge -/
theorem test_drw_clips : (after (start 0xD011 fun s => poke 0x300 [0xFF#8] ((s.setI 0x300#16).setV 0 60))).map
    (fun t => (t.fb[7], t.fb[8], t.getV 15, t.redraw)) = some (0x0F#8, 0#8, 0#8, true) := by decide +kernel
/-- V45.20: a collision in the second byte only -/
theorem test_drw_collides : (after (start 0xD011 fun s => lit 1 0x80#8 (poke 0x300 [0xFF#8] ((s.setI 0x300#16).setV 0 4)))).map
    (fun t => (t.fb[0], t.fb[1], t.getV 15)) = some (0x0F#8, 0x70#8, 1#8) := by decide +kernel

/-! ### Keypad and timers: V46, V47 -/

/-- V46.1, V46.2 -/
theorem test_skp : (after (start 0xE19E fun s => press [5] (s.setV 1 5))).map (·.pc) = some 0x204#16 ∧
    (after (start 0xE19E fun s => press [4] (s.setV 1 5))).map (·.pc) = some 0x202#16 := by decide
/-- V46.6 -/
theorem test_skp_illegal_key : (errorOf (start 0xE19E fun s => press [0] (s.setV 1 16))).map (fun e => (e.1, e.2.pc)) =
    some (.illegalKey, 0x202#16) := by decide
/-- V46.3, V46.4 -/
theorem test_sknp : (after (start 0xE1A1 fun s => press [5] (s.setV 1 5))).map (·.pc) = some 0x202#16 ∧
    (after (start 0xE1A1 fun s => press [] (s.setV 1 5))).map (·.pc) = some 0x204#16 := by decide
/-- V46.7 -/
theorem test_sknp_illegal_key : (errorOf (start 0xE1A1 (·.setV 1 0xFF#8))).map (fun e => (e.1, e.2.pc)) =
    some (.illegalKey, 0x202#16) := by decide
/-- V46.10 -/
theorem test_ldVxK : (after (start 0xF30A fun s => press [3, 7] (s.setV 3 0x77#8))).map (fun t => (t.getV 3, t.pc)) =
    some (3#8, 0x202#16) := by decide
/-- V46.8 -/
theorem test_ldVxK_waits : (after (start 0xF30A (·.setV 3 0x77#8))).map (fun t => (t.getV 3, t.pc)) = some (0x77#8, 0x200#16) := by decide
/-- V47.3 -/
theorem test_ldVxDT : (after (start 0xF207 fun s => (s.setDT 0x2A#8).setV 2 1)).map (fun t => (t.getV 2, t.dt)) =
    some (0x2A#8, 0x2A#8) := by decide
/-- V47.1 -/
theorem test_ldDTVx : (after (start 0xF115 (·.setV 1 0x3C#8))).map (fun t => (t.dt, t.st)) = some (0x3C#8, 0#8) := by decide
/-- V47.2 -/
theorem test_ldSTVx : (after (start 0xF118 (·.setV 1 0x02#8))).map (fun t => (t.st, t.dt)) = some (0x02#8, 0#8) := by decide

/-! ### Host commands: V49 -/

/-- The bound of V49.2 at the last address: one byte more than fits (R192, D24) -/
theorem test_loadRom_too_long : command (.loadRom 4095 [1#8, 2#8]) State.reset = (State.reset, .err .illegalAddress) := rfl
/-- V49.3 -/
theorem test_loadRom : ((command (.loadRom 0x300 [0x12#8, 0x00#8]) (State.reset.setV 0 0x37#8)).1.pc,
    (command (.loadRom 0x300 [0x12#8, 0x00#8]) (State.reset.setV 0 0x37#8)).1.readByte 0x300,
    (command (.loadRom 0x300 [0x12#8, 0x00#8]) (State.reset.setV 0 0x37#8)).1.getV 0) = (0x300#16, 0x12#8, 0x37#8) := by decide
/-- V47.5 -/
theorem test_tick : ((tick ((State.reset.setDT 2).setST 1)).dt, (tick ((State.reset.setDT 2).setST 1)).st,
    (tick (tick ((State.reset.setDT 2).setST 1))).st) = (1#8, 0#8, 0#8) := by decide
/-- V49.4 -/
theorem test_takeRedraw : (command .takeRedraw (State.reset.setRedraw true)).2 = .bit true ∧
    (command .takeRedraw (State.reset.setRedraw true)).1.redraw = false := by decide
/-- V47.6 -/
theorem test_beeping : (command .beeping (State.reset.setST 1)).2 = .bit true ∧
    (command .beeping (tick (State.reset.setST 1))).2 = .bit false := by decide
/-- R258: LAUNCH leaves pc at the load address and the seed in the generator -/
theorem test_launch : ((launch defaultConfig 0x300 [0x12#8] 7#32 .vx).pc, (launch defaultConfig 0x300 [0x12#8] 7#32 .vx).rng,
    (launch defaultConfig 0x300 [0x12#8] 7#32 .vx).shiftSrc, (launch defaultConfig 0x300 [0x12#8] 7#32 .vx).readByte 0x300) =
    (0x300#16, 7#32, .vx, 0x12#8) := by decide

/-! ### Witnesses: inputs that meet the hypotheses of each statement, at the boundary values of its clauses -/

/-- A state whose memory is canonical and lists cells, with `I` and `pc` given. -/
def busy (i pc : Word) : State := poke 0x300 [0x12#8, 0x34#8] ((State.reset.setI i).setPc pc)

theorem witness_DecodeOfEncodeIsTheInstruction : (Instr.sys 0xFFF#12).wellFormed = true ∧ (Instr.drw 15 15 15).wellFormed = true := by
  decide
theorem witness_EncodeOfDecodeIsTheWord : decode? 0x8FFE#16 = some (.shl 15 15) ∧ decode 0x8FFE#16 = .ok (.shl 15 15) :=
  ⟨by decide, rfl⟩
/-- One word under each clause. -/
theorem witness_IllegalWordsAreExactlyThese : decode 0x5011#16 = .error (.illegalInstruction 0x5011#16) ∧
    decode 0x800F#16 = .error (.illegalInstruction 0x800F#16) ∧ decode 0x9001#16 = .error (.illegalInstruction 0x9001#16) ∧
    decode 0xE09F#16 = .error (.illegalInstruction 0xE09F#16) ∧ decode 0xF066#16 = .error (.illegalInstruction 0xF066#16) :=
  ⟨rfl, rfl, rfl, rfl, rfl⟩
/-- A failing fetch, an illegal word, a legal one. -/
theorem witness_StepIsTheInstructionCycle : 4096 < (State.reset.setPc 4095#16).pc.toNat + 2 ∧
    (start 0xFFFF id).memRead (start 0xFFFF id).pc.toNat 2 = .ok [0xFF#8, 0xFF#8] ∧
    decode (0xFF#8 ++ 0xFF#8 : Word) = .error (.illegalInstruction 0xFFFF#16) ∧
    (start 0x1234 id).memRead (start 0x1234 id).pc.toNat 2 = .ok [0x12#8, 0x34#8] ∧
    decode (0x12#8 ++ 0x34#8 : Word) = .ok (.jp 0x234#12) := ⟨by decide, rfl, rfl, rfl, rfl⟩
theorem witness_FetchIsMemReadOfTwoBytes : (busy 0 4094#16).pc.toNat ≤ 4094 ∧ 4095 ≤ (busy 0 4095#16).pc.toNat := by decide
theorem witness_FetchedWordIsBigEndian : (busy 0 0x300#16).fetch = .ok 0x1234#16 := rfl
theorem witness_PlacedWordIsWhatStepRuns : Memory.wf (busy 0 4094#16).config (busy 0 4094#16).mem = true ∧
    (busy 0 4094#16).pc.toNat ≤ 4094 ∧ decodeTableWord 16 0xD01F = some (.drw 0 1 15) := by decide
theorem witness_StepNeverRaisesIllegalRegister : registerPort 15 = .ok 15 ∧ registerPort 16 = .error .illegalRegister := ⟨rfl, rfl⟩
/-- A fetch error, and the error of a handler. -/
theorem witness_ErrorsArePrecise : step (State.reset.setPc 4095#16) = .fault (.illegalAddress (State.reset.setPc 4095#16)) ∧
    step (start 0x00EE id) = .fault (.stackUnderflow ((start 0x00EE id).setPc 0x202#16)) := ⟨rfl, rfl⟩
/-- Each handler on both sides of its bound. -/
theorem witness_HandlersRaiseExactlyThese :
    (exec .ret State.reset = .fault (.stackUnderflow State.reset)) ∧
    (exec (.call 0x300#12) (stacked 1 16 State.reset) = .fault (.stackOverflow (stacked 1 16 State.reset))) ∧
    (exec (.drw 0 1 1) (busy 4096#16 0) = .fault (.illegalAddress (busy 4096#16 0))) ∧
    (exec (.ldB 0) (busy 4094#16 0) = .fault (.illegalAddress (busy 4094#16 0))) ∧
    (exec (.store 15) (busy 4081#16 0) = .fault (.illegalAddress (busy 4081#16 0))) ∧
    (exec (.load 15) (busy 4081#16 0) = .fault (.illegalAddress (busy 4081#16 0))) ∧
    (exec (.skp 1) (State.reset.setV 1 16) = .fault (.illegalKey (State.reset.setV 1 16))) ∧
    (exec (.sknp 1) (State.reset.setV 1 16) = .fault (.illegalKey (State.reset.setV 1 16))) :=
  ⟨rfl, rfl, rfl, rfl, rfl, rfl, rfl, rfl⟩
theorem witness_StepCommandGoesOnAfterAnError : 4095 ≤ (State.reset.setPc 4095#16).pc.toNat ∧
    (start 0xFFFF id).pc.toNat ≤ 4094 ∧ (command .step (start 0xFFFF id)).2 = .err (.illegalInstruction 0xFFFF#16) := by decide
/-- The invariant holds of a state with memory listed, a stack entry of 4096 and pc at 0x10FE; the step is of one more such. -/
theorem witness_StepKeepsTheInvariant : (start 0xBFFF fun s => stacked 4096#16 1 (s.setV 0 0xFF#8)).Inv ∧
    ∃ t, step (start 0xBFFF fun s => stacked 4096#16 1 (s.setV 0 0xFF#8)) = .next t ∧ t.pc = 0x10FE#16 :=
  ⟨⟨by decide, by decide, by decide⟩, _, rfl, rfl⟩
theorem witness_EveryCommandKeepsTheInvariant : (stacked 4096#16 16 (busy 0 0x10FE#16)).Inv := ⟨by decide, by decide, by decide⟩
theorem witness_SysIsANoOp : (0x0E1#12 : Addr) ≠ 0x0E0#12 ∧ (0x0E1#12 : Addr) ≠ 0x0EE#12 ∧
    (start 0x00E1 id).fetch = .ok (0x0#4 ++ 0x0E1#12 : Word) := ⟨by decide, by decide, rfl⟩
theorem witness_JumpSetsPc : exec (.jp 0xFFF#12) State.reset = .next (State.reset.setPc 0xFFF#16) ∧
    (start 0x1200 id).fetch = .ok (0x1#4 ++ 0x200#12 : Word) ∧ (start 0x1200 id).pc.toNat = (0x200#12 : Addr).toNat :=
  ⟨rfl, rfl, by decide⟩
theorem witness_JumpWithOffsetAddsV0 : 4095 ≤ (0xFFF#12 : Addr).toNat + (State.reset.getV 0).toNat := by decide
theorem witness_CallPushesAndJumps : (stacked 1 0 State.reset).sp.val = (0 : Fin 16).val ∧
    (stacked 1 15 State.reset).sp.val = (15 : Fin 16).val ∧ (stacked 1 16 State.reset).sp.val = 16 := by decide
theorem witness_ReturnPopsIntoPc : (stacked 1 1 State.reset).sp.val = (0 : Fin 16).val + 1 ∧
    (stacked 1 16 State.reset).sp.val = (15 : Fin 16).val + 1 ∧ (stacked 1 0 State.reset).sp.val = 0 ∧
    (stacked 4096#16 16 State.reset).Inv ∧ 4095 ≤ (stacked 4095#16 16 State.reset).stack[(15 : Fin 16)].toNat :=
  ⟨by decide, by decide, by decide, ⟨by decide, by decide, by decide⟩, by decide⟩
/-- The state the RET runs in differs from the one the CALL left. -/
theorem witness_ReturnResumesAfterCall : ∃ t u : State, exec (.call 0x300#12) State.reset = .next t ∧ u.stack = t.stack ∧ u.sp = t.sp ∧
    u.pc ≠ t.pc := ⟨_, (stacked 0 1 State.reset).setStack (State.reset.stack.set 0 0x200#16) 1, rfl, rfl, rfl, by decide⟩
theorem witness_StackIsLastInFirstOut : (stacked 1 14 State.reset).sp.val + [1#16, 2#16].length ≤ 16 ∧
    16 < (stacked 1 15 State.reset).sp.val + [1#16, 2#16].length := by decide
theorem witness_SkipsOnRegisters : (0x1#4 : Nibble) ≠ 0x0#4 ∧ (0xF#4 : Nibble) ≠ 0x0#4 ∧ ((0x9#4 : BitVec 4) = 0x5#4 ∨ (0x9#4 : BitVec 4) = 0x9#4) := by
  decide
theorem witness_AddAndSubtractSetResultThenFlag : (14 : Reg) ≠ VF ∧ (0 : Reg) ≠ 14 ∧ (0 : Reg) ≠ VF := by decide
/-- Both settings of the toggle. -/
theorem witness_ShiftsUseTheToggledSource : (State.reset.shiftSrc = .vy ∧ (5#8 = (State.reset.setV 2 5).getV 2)) ∧
    ((State.reset.setShiftSrc .vx).shiftSrc = .vx ∧ (5#8 = ((State.reset.setShiftSrc .vx).setV 1 5).getV 1)) := by decide
theorem witness_DecimalDigitsAreStored : Memory.wf (busy 4093#16 0).config (busy 4093#16 0).mem = true ∧
    (busy 4093#16 0).i.toNat + 3 ≤ 4096 ∧ 4096 < (busy 4094#16 0).i.toNat + 3 := by decide
theorem witness_StoreWritesV0ToVx : Memory.wf (busy 4080#16 0).config (busy 4080#16 0).mem = true ∧
    (busy 4080#16 0).i.toNat + (15 : Reg).val + 1 ≤ 4096 ∧ 4096 < (busy 4081#16 0).i.toNat + (15 : Reg).val + 1 := by decide
theorem witness_LoadReadsV0ToVx : (busy 4095#16 0).i.toNat + (0 : Reg).val + 1 ≤ 4096 ∧
    4096 < (busy 4096#16 0).i.toNat + (0 : Reg).val + 1 := by decide
/-- The registers have changed between the store and the load. -/
theorem witness_LoadRestoresWhatStoreSaved : Memory.wf (busy 4080#16 0).config (busy 4080#16 0).mem = true ∧
    ∃ t u : State, exec (.store 15) (busy 4080#16 0) = .next t ∧ u.mem = t.mem ∧ u.config = t.config ∧ u.i = t.i ∧ u.getV 3 ≠ t.getV 3 :=
  ⟨by decide, busy 4080#16 0, (busy 4080#16 0).setV 3 7, rfl, rfl, rfl, rfl, by decide⟩
/-- V43.33 -/
theorem witness_StoreIsSeenByTheNextFetch : ∃ s t : State, Memory.wf s.config s.mem = true ∧ exec (.store 1) s = .next t ∧
    (1 : Reg).val = (0 : Reg).val + 1 ∧ (1 : Reg).val ≤ (1 : Reg).val ∧ s.pc.toNat = s.i.toNat + (0 : Reg).val ∧
    s.getV 0 = 0x6A#8 ∧ s.getV 1 = 0x33#8 :=
  ⟨((busy 0x202#16 0x202#16).setV 0 0x6A#8).setV 1 0x33#8, _, by decide, rfl, by decide, by decide, by decide, by decide, by decide⟩
theorem witness_AccessIsLegalExactlyInBounds : [1#8, 2#8].length = 2 ∧ 4094 + 2 ≤ 4096 ∧ 4096 < 4095 + 2 ∧
    ([] : List Byte).length = 0 ∧ 4096 + 0 ≤ 4096 ∧ 4096 < 4097 + 0 := by decide
theorem witness_RandomByteIsMasked : (0x00#8 : Byte) = 0 ∧ (2 : Reg) ≠ 1 ∧ (∀ x nn, Instr.cls ≠ .rnd x nn) ∧
    ∃ t, exec .cls State.reset = .next t := ⟨by decide, by decide, by simp, _, rfl⟩
/-- A sprite that ends at the last byte and one that passes it; V45.15 collides, V45.3 does not. -/
theorem witness_DrawXorsTheSpriteAndReportsCollision : (busy 4081#16 0).i.toNat + (15 : Nibble).toNat ≤ 4096 ∧
    4096 < (busy 4082#16 0).i.toNat + (15 : Nibble).toNat ∧
    (poke 0x300 [0xF0#8] (State.reset.setI 0x300#16)).spriteCovers 0 1 1 3 0 = true ∧
    pixel (lit 0 0x10#8 State.reset).fb 3 0 = true ∧ pixel State.reset.fb 3 0 = false := by decide +kernel
/-- Keys 0 and 15, and the first index above. -/
theorem witness_SkipsOnKeys : ((State.reset.setV 1 0).getV 1).toNat = (0 : Fin 16).val ∧
    ((State.reset.setV 1 15).getV 1).toNat = (15 : Fin 16).val ∧ 15 < ((State.reset.setV 1 16).getV 1).toNat := by decide
/-- Key 15 alone, keys 3 and 7, and no key. -/
theorem witness_WaitForKeyLoadsTheLeastKey : ((press [15] State.reset).keys[(15 : Fin 16)] = true ∧
      ∀ j : Fin 16, j < 15 → (press [15] State.reset).keys[j] = false) ∧
    ((press [3, 7] State.reset).keys[(3 : Fin 16)] = true ∧ ∀ j : Fin 16, j < 3 → (press [3, 7] State.reset).keys[j] = false) ∧
    (start 0xF30A id).fetch = .ok 0xF30A#16 ∧ decode 0xF30A#16 = .ok (.ldVxK 3) ∧
    ∀ k : Fin 16, (start 0xF30A id).keys[k] = false := ⟨by decide, by decide, rfl, rfl, by decide⟩
theorem witness_LoadRomCopiesAndSetsPc : Memory.wf (busy 0 0).config (busy 0 0).mem = true ∧ 4094 + [1#8, 2#8].length ≤ 4096 ∧
    4096 < 4095 + [1#8, 2#8].length := by decide
/-- The end of program P6. -/
theorem witness_JumpToSelfChangesNothing : ((State.reset.setPc 0x20C#16).withFetchWord 16 0x120C).endedNormally := rfl
/-- A next state, a register the instruction writes and one it does not. -/
theorem witness_OtherRegistersAreKept : (∃ t, exec (.load 2) (busy 0x300#16 0) = .next t) ∧ ¬(Instr.load 2).mayWriteV 3 ∧
    (Instr.load 2).mayWriteV 2 := ⟨⟨_, rfl⟩, by simp [Instr.mayWriteV], by simp [Instr.mayWriteV]⟩
theorem witness_OtherBytesAreKept : Memory.wf (busy 0x300#16 0).config (busy 0x300#16 0).mem = true ∧
    ∃ t, exec (.ldB 0) (busy 0x300#16 0) = .next t := ⟨by decide, _, rfl⟩
/-- A step that changes each piece of state the statement names. -/
theorem witness_SpecialStateIsWrittenOnlyByItsInstructions :
    (∃ t, exec (.jp 1) State.reset = .next t ∧ t.pc ≠ State.reset.pc) ∧
    (∃ t, exec (.ldVxK 1) State.reset = .next t ∧ t.pc ≠ State.reset.pc) ∧
    (∃ t, exec (.ldI 1) State.reset = .next t ∧ t.i ≠ State.reset.i) ∧
    (∃ t, exec (.call 1) (State.reset.setPc 0x202#16) = .next t ∧ t.stack ≠ State.reset.stack ∧ t.sp ≠ State.reset.sp) ∧
    (∃ t, exec (.ldDTVx 1) (State.reset.setV 1 5) = .next t ∧ t.dt ≠ State.reset.dt) ∧
    (∃ t, exec (.ldSTVx 1) (State.reset.setV 1 5) = .next t ∧ t.st ≠ State.reset.st) ∧
    (∃ t, exec .cls State.reset = .next t ∧ t.redraw ≠ State.reset.redraw) ∧
    (∃ t, exec (.rnd 1 1) State.reset = .next t ∧ t.rng ≠ State.reset.rng) :=
  ⟨⟨_, rfl, by decide⟩, ⟨_, rfl, by decide⟩, ⟨_, rfl, by decide⟩, ⟨_, rfl, by decide, by decide⟩, ⟨_, rfl, by decide⟩, ⟨_, rfl, by decide⟩, ⟨_, rfl, by decide⟩,
    ⟨_, rfl, by decide⟩⟩
/-- Two states that differ in `ST`, `redraw` and the unused stack entries. -/
theorem witness_UnseenStateNeverMatters : SeenAlike State.reset (((stacked 7 0 State.reset).setST 9).setRedraw true) ∧
    State.reset ≠ (((stacked 7 0 State.reset).setST 9).setRedraw true) :=
  ⟨⟨rfl, rfl, rfl, rfl, by decide, rfl, rfl, rfl, rfl, rfl, rfl, rfl⟩, by decide +kernel⟩

end Sys2Proof.Tests
end

section
/-! PROOFS. Control transfer (40_flow.md R102, R104, R106): the step of a known word, the failing fetch, the handlers of 1nnn, Bnnn
and 00EE each as one equation, and the obligations on them. -/

namespace Sys2Proof.Machine

/-! ### The step -/

/-- Where fewer than two bytes are left the step stops and nothing changes (20_memory.md R55). -/
theorem step_of_fetch_outside {s : State} (h : 4095 ≤ s.pc.toNat) : step s = .fault (.illegalAddress s) := by
  have hf : s.fetch = .error .illegalAddress := State.fetch_eq_error.2 ⟨by omega, rfl⟩
  simp [step, hf, raise]

/-- A control transfer to 4095 or more is made, and the step after it stops (40_flow.md R102, R104, R106). -/
theorem step_setPc_outside (s : State) {w : Word} (h : 4095 ≤ w.toNat) :
    step (s.setPc w) = .fault (.illegalAddress (s.setPc w)) :=
  step_of_fetch_outside h

/-- The step of a fetched word that decodes is its handler on the advanced state (30_encoding.md R72). -/
theorem step_of_decode {s : State} {w : Word} {i : Instr} (hf : s.fetch = .ok w) (hd : decode w = .ok i) :
    step s = exec i s.advance := by
  simp [step, hf, hd]

/-! ### The program counter -/

/-- A jump overwrites whatever the advance left in pc. -/
@[simp] theorem State.setPc_advance (s : State) (w : Word) : s.advance.setPc w = s.setPc w := rfl

@[simp] theorem State.setPc_self (s : State) : s.setPc s.pc = s := rfl

@[simp] theorem toNat_zextAddr (nnn : Addr) : (zextAddr nnn).toNat = nnn.toNat :=
  BitVec.toNat_setWidth_of_le (by decide)

@[simp] theorem toNat_zextByte (b : Byte) : (zextByte b).toNat = b.toNat :=
  BitVec.toNat_setWidth_of_le (by decide)

/-- The sum of Bnnn is at most 0x10FE, so 16 bits hold it (40_flow.md R106). -/
theorem toNat_zextAddr_add_zextByte (nnn : Addr) (b : Byte) :
    (zextAddr nnn + zextByte b).toNat = nnn.toNat + b.toNat := by
  have hn := nnn.isLt
  have hb := b.isLt
  rw [BitVec.toNat_add_of_lt, toNat_zextAddr, toNat_zextByte]
  rw [toNat_zextAddr, toNat_zextByte]
  omega

/-! ### Decoding -/

theorem decode_jp (nnn : Addr) : decode (formatNNN 0x1#4 nnn) = .ok (.jp nnn) :=
  decode_eq_ok.2 (by simp [decode?])

theorem decode_jpV0 (nnn : Addr) : decode (formatNNN 0xB#4 nnn) = .ok (.jpV0 nnn) :=
  decode_eq_ok.2 (by simp [decode?])

/-! ### The handlers -/

theorem exec_jp (nnn : Addr) (s : State) : exec (.jp nnn) s = .next (s.setPc (zextAddr nnn)) := rfl

theorem exec_jpV0 (nnn : Addr) (s : State) :
    exec (.jpV0 nnn) s = .next (s.setPc (zextAddr nnn + zextByte (s.getV 0))) := rfl

/-- 00EE with `k + 1` entries in use: entry `k` goes to pc, the array keeps it (40_flow.md R101, R102). -/
theorem exec_ret_of_sp_succ {s : State} {k : Fin 16} (h : s.sp.val = k.val + 1) :
    exec .ret s = .next ((s.setStack s.stack k.castSucc).setPc s.stack[k]) := by
  have hpop : s.pop = .ok (s.stack[k], s.setStack s.stack k.castSucc) := by
    refine State.pop_eq_ok.2 ⟨by omega, ?_⟩
    have hk : s.sp.val - 1 = k.val := by omega
    simp only [hk]
    rfl
  show orRaise s s.pop _ = _
  rw [hpop, orRaise_ok]

/-- 00EE on an empty stack (40_flow.md R102). -/
theorem exec_ret_of_sp_zero {s : State} (h : s.sp.val = 0) : exec .ret s = .fault (.stackUnderflow s) := by
  have hpop : s.pop = .error .stackUnderflow := State.pop_eq_error.2 ⟨h, rfl⟩
  show orRaise s s.pop _ = _
  rw [hpop, orRaise_error, raise]

/-- A jump standing at its own target is a loop that changes nothing (40_flow.md R104; 70_reset_and_hazards.md R257). -/
theorem step_of_jp_to_self {nnn : Addr} {s : State} (hf : s.fetch = .ok (formatNNN 0x1#4 nnn))
    (hpc : s.pc.toNat = nnn.toNat) : step s = .next s := by
  have htarget : zextAddr nnn = s.pc := BitVec.eq_of_toNat_eq (by rw [toNat_zextAddr, hpc])
  rw [step_of_decode hf (decode_jp nnn), exec_jp, State.setPc_advance, htarget, State.setPc_self]

/-! ### The obligations -/

/-- Settles O20, from the equation of the handler: pc is the zero-extended target; 0xFFF is out of the fetch's reach. -/
theorem jumpSetsPc : Obligations.JumpSetsPc := by
  refine ⟨decode_jp, fun nnn s => ⟨_, exec_jp nnn s, toNat_zextAddr nnn, rfl⟩, fun s t h => ?_,
    fun _ _ => step_of_jp_to_self⟩
  obtain rfl : s.setPc (zextAddr 0xFFF#12) = t := by simpa [exec_jp] using h
  exact step_setPc_outside s (by decide)

/-- Settles O21, from the equation of the handler: the 16-bit sum does not wrap, so it is the sum of the numbers. -/
theorem jumpWithOffsetAddsV0 : Obligations.JumpWithOffsetAddsV0 := by
  refine ⟨decode_jpV0, fun nnn s => ?_⟩
  have hsum := toNat_zextAddr_add_zextByte nnn (s.getV 0)
  exact ⟨_, exec_jpV0 nnn s, hsum, rfl, fun hout => step_setPc_outside s (hsum ▸ hout)⟩

/-- Settles O23, by the two cases of the pop; the bound on the popped value is the invariant's bound on stack entries. -/
theorem returnPopsIntoPc : Obligations.ReturnPopsIntoPc :=
  ⟨by decide, fun _ =>
    ⟨fun k hsp => ⟨_, exec_ret_of_sp_succ hsp, rfl, rfl, rfl, fun hinv => hinv.stack k, step_setPc_outside _⟩,
      exec_ret_of_sp_zero⟩⟩

end Sys2Proof.Machine
end

section
/-! PROOFS. Skips on an immediate (41_skip.md R110, R111, R114): the skip as one write of pc, the words and the handlers of 3xnn
and 4xnn each as one equation, and the obligation on them. -/

namespace Sys2Proof.Machine

/-- A skip is one write of pc, whether it is taken or not (41_skip.md R114). -/
theorem State.skipIf_eq_setPc (s : State) (c : Bool) : s.skipIf c = s.setPc (if c then s.pc + 2 else s.pc) := by
  cases c with
  | false => exact (State.setPc_self s).symm
  | true => rfl

theorem decode_seImm (x : Reg) (nn : Byte) : decode (formatXNN 0x3#4 x nn) = .ok (.seImm x nn) :=
  decode_eq_ok.2 (by simp [decode?])

theorem decode_sneImm (x : Reg) (nn : Byte) : decode (formatXNN 0x4#4 x nn) = .ok (.sneImm x nn) :=
  decode_eq_ok.2 (by simp [decode?])

/-- 3xnn writes pc alone (41_skip.md R110). -/
theorem exec_seImm (x : Reg) (nn : Byte) (s : State) :
    exec (.seImm x nn) s = .next (s.setPc (if s.getV x = nn then s.pc + 2 else s.pc)) := by
  show Host.Outcome.next (s.skipIf (s.getV x == nn)) = _
  simp only [State.skipIf_eq_setPc, beq_iff_eq]

/-- 4xnn writes pc alone, with the branches of 3xnn exchanged (41_skip.md R111). -/
theorem exec_sneImm (x : Reg) (nn : Byte) (s : State) :
    exec (.sneImm x nn) s = .next (s.setPc (if s.getV x = nn then s.pc else s.pc + 2)) := by
  show Host.Outcome.next (s.skipIf (s.getV x != nn)) = _
  simp only [State.skipIf_eq_setPc, bne_iff_ne, ne_eq, ite_not]

/-- Settles O26, from the words of format XNN and the two handlers' equations, each a write of pc alone. -/
theorem skipsOnImmediate : Obligations.SkipsOnImmediate :=
  ⟨fun x nn => ⟨decode_seImm x nn, decode_sneImm x nn⟩, fun x nn s => ⟨exec_seImm x nn s, exec_sneImm x nn s⟩⟩

end Sys2Proof.Machine
end

section
/-! PROOFS. Load, move and add immediate (42_alu.md R120, R121, R122): one register write with its frame, the words and the
handlers of 6xnn, 7xnn and 8xy0 each as one equation, and the obligations on them. -/

namespace Sys2Proof.Machine

/-! ### One register write -/

/-- A register write changes the register file alone (10_state.md R21). -/
theorem State.onlyV_setV (s : State) (x : Reg) (b : Byte) : s.onlyV (s.setV x b) := rfl

/-- A register write and its frame: the destination reads the byte, every other register and all other state are kept. -/
theorem State.setV_writes_only (s : State) (x : Reg) (b : Byte) :
    (s.setV x b).getV x = b ∧ (∀ r, r ≠ x → (s.setV x b).getV r = s.getV r) ∧ s.onlyV (s.setV x b) :=
  ⟨s.getV_setV_self x b, fun _ hr => s.getV_setV_ne b hr, s.onlyV_setV x b⟩

/-! ### Decoding -/

theorem decode_ldImm (x : Reg) (nn : Byte) : decode (formatXNN 0x6#4 x nn) = .ok (.ldImm x nn) :=
  decode_eq_ok.2 (by simp [decode?])

theorem decode_addImm (x : Reg) (nn : Byte) : decode (formatXNN 0x7#4 x nn) = .ok (.addImm x nn) :=
  decode_eq_ok.2 (by simp [decode?])

theorem decode_ldReg (x y : Reg) : decode (formatXYN 0x8#4 x y 0x0#4) = .ok (.ldReg x y) :=
  decode_eq_ok.2 (by simp [decode?, decodeAlu])

/-! ### The handlers -/

theorem exec_ldImm (x : Reg) (nn : Byte) (s : State) : exec (.ldImm x nn) s = .next (s.setV x nn) := rfl

theorem exec_addImm (x : Reg) (nn : Byte) (s : State) : exec (.addImm x nn) s = .next (s.setV x (s.getV x + nn)) := rfl

theorem exec_ldReg (x y : Reg) (s : State) : exec (.ldReg x y) s = .next (s.setV x (s.getV y)) := rfl

/-! ### The obligations -/

/-- Settles O28, from the words of formats XNN and XY and the two handlers' equations, each one register write. -/
theorem loadAndMoveWriteTheDestination : Obligations.LoadAndMoveWriteTheDestination :=
  ⟨decode_ldImm, decode_ldReg,
    fun x nn s => ⟨_, exec_ldImm x nn s, s.setV_writes_only x nn⟩,
    fun x y s => ⟨_, exec_ldReg x y s, s.setV_writes_only x (s.getV y)⟩⟩

/-- Settles O29: the handler is one register write of the byte sum, and a sum of bytes is the sum modulo 256; VF is a
register like any other here (42_alu.md R121). -/
theorem addImmediateWrapsAndSetsNoFlag : Obligations.AddImmediateWrapsAndSetsNoFlag := by
  refine ⟨decode_addImm, fun x nn s => ⟨_, exec_addImm x nn s, ?_⟩⟩
  obtain ⟨hx, hothers, hframe⟩ := s.setV_writes_only x (s.getV x + nn)
  exact ⟨(congrArg BitVec.toNat hx).trans (BitVec.toNat_add _ _), hothers, hframe⟩

end Sys2Proof.Machine
end

section
/-! PROOFS. The pseudo-random instruction (44_random.md R150, R151): the bits of a masked low byte, the word and the handler of
Cxnn each as one equation, the instructions that leave the generator alone, and the obligation on them. -/

namespace Sys2Proof.Machine

/-- The mask is a byte, so the cut to the low byte drops no bit of the result. -/
theorem getLsbD_lowByte_and (w : BitVec 32) (nn : Byte) (k : Nat) :
    (w.setWidth 8 &&& nn).getLsbD k = (w.getLsbD k && nn.getLsbD k) := by
  rw [BitVec.getLsbD_and, BitVec.getLsbD_setWidth]
  by_cases hk : k < 8
  · simp [hk]
  · simp [BitVec.getLsbD_of_ge nn k (by omega)]

theorem decode_rnd (x : Reg) (nn : Byte) : decode (formatXNN 0xC#4 x nn) = .ok (.rnd x nn) :=
  decode_eq_ok.2 (by simp [decode?])

/-- Cxnn advances the generator once and writes one register (44_random.md R151). -/
theorem exec_rnd (x : Reg) (nn : Byte) (s : State) :
    exec (.rnd x nn) s =
      .next ((s.setRng (xorshift s.rng)).setV x ((xorshift s.rng).setWidth 8 &&& nn)) := rfl

/-- No instruction but Cxnn moves the generator (44_random.md R151). The handlers that can raise continue from what the stack, the
memory or the keypad answers; the others write one state outright. -/
theorem exec_keeps_rng {i : Instr} {s t : State} (hi : ∀ x nn, i ≠ .rnd x nn) (h : exec i s = .next t) :
    t.rng = s.rng := by
  cases i with
  | rnd x nn => exact absurd rfl (hi x nn)
  | ret =>
    obtain ⟨r, hpop, hnext⟩ := orRaise_eq_next.1 h
    obtain ⟨_, rfl⟩ := State.pop_eq_ok.1 hpop
    cases hnext
    rfl
  | call nnn =>
    obtain ⟨u, hpush, hnext⟩ := orRaise_eq_next.1 h
    obtain ⟨_, rfl⟩ := State.push_eq_ok.1 hpush
    cases hnext
    rfl
  | ldB | store =>
    obtain ⟨u, hwrite, hnext⟩ := orRaise_eq_next.1 h
    obtain ⟨_, rfl⟩ := State.memWrite_eq_ok.1 hwrite
    cases hnext
    rfl
  | drw | load | skp | sknp =>
    obtain ⟨a, -, hnext⟩ := orRaise_eq_next.1 h
    cases hnext
    simp
  | ldVxK x =>
    simp only [exec, execLdVxK] at h
    split at h <;> (cases h; rfl)
  | _ =>
    cases h
    simp

/-- Settles O42, from the word of format XNN, the handler's equation (one advance of the generator, one register write) and the
frame of the generator. -/
theorem randomByteIsMasked : Obligations.RandomByteIsMasked := by
  refine ⟨decode_rnd, fun x nn s => ⟨_, exec_rnd x nn s, rfl, ?_⟩, fun _ _ _ => exec_keeps_rng⟩
  obtain ⟨hx, hothers, -⟩ :=
    (s.setRng (xorshift s.rng)).setV_writes_only x ((xorshift s.rng).setWidth 8 &&& nn)
  refine ⟨fun k => ?_, fun hnn => ?_, hothers, rfl⟩
  · rw [hx, getLsbD_lowByte_and]
  · subst hnn
    exact hx.trans BitVec.and_zero

end Sys2Proof.Machine
end

section
/-! PROOFS. Clearing the display (45_display.md R164, R165): the clear with its frame, the word and the handler of 00E0, and the
obligation on them. -/

namespace Sys2Proof.Machine

theorem State.getElem_clear_fb (s : State) (k : Fin 256) : s.clear.fb[k] = 0 := by
  rw [State.clear_fb]
  exact Vector.getElem_replicate k.isLt

/-- The clear writes the framebuffer and the redraw flag alone (45_display.md R164). -/
theorem State.clear_eq_update (s : State) :
    s.clear = { s with fb := s.clear.fb, redraw := s.clear.redraw } := rfl

theorem decode_cls : decode 0x00E0#16 = .ok .cls := by decide

theorem exec_cls (s : State) : exec .cls s = .next s.clear := rfl

/-- Settles O44, from the word and the handler's equation: 00E0 is one clear, whose frame is all but the two display fields. -/
theorem clearBlanksTheDisplay : Obligations.ClearBlanksTheDisplay :=
  ⟨decode_cls, fun s => ⟨_, exec_cls s, s.getElem_clear_fb, s.clear_redraw, s.clear_eq_update⟩⟩

end Sys2Proof.Machine
end

section
/-! PROOFS. Skips on a key (46_keypad.md R170, R171): the key a register names, the words and the handlers of Ex9E and ExA1 for a
key index and for an index above 15, and the obligation on them. -/

namespace Sys2Proof.Machine

/-! ### The key a register names -/

/-- The whole register value is the key index (46_keypad.md R170). -/
theorem State.keyNamedBy_of_key {s : State} {x : Reg} {k : Fin 16} (h : (s.getV x).toNat = k.val) :
    s.keyNamedBy x = .ok s.keys[k] := by
  refine State.keyNamedBy_eq_ok.2 ⟨h ▸ k.isLt, ?_⟩
  simp only [h]
  rfl

/-- An index above 15 names no key: it is an error, not a released key (46_keypad.md R171). -/
theorem State.keyNamedBy_of_no_key {s : State} {x : Reg} (h : 15 < (s.getV x).toNat) :
    s.keyNamedBy x = .error .illegalKey :=
  State.keyNamedBy_eq_error.2 ⟨h, rfl⟩

/-! ### Decoding -/

theorem decode_skp (x : Reg) : decode (formatXNN 0xE#4 x 0x9E#8) = .ok (.skp x) :=
  decode_eq_ok.2 (by simp [decode?, decodeKey])

theorem decode_sknp (x : Reg) : decode (formatXNN 0xE#4 x 0xA1#8) = .ok (.sknp x) :=
  decode_eq_ok.2 (by simp [decode?, decodeKey])

/-! ### The handlers -/

/-- Ex9E on a key writes pc alone (46_keypad.md R170). -/
theorem exec_skp_of_key {s : State} {x : Reg} {k : Fin 16} (h : (s.getV x).toNat = k.val) :
    exec (.skp x) s = .next (s.setPc (if s.keys[k] = true then s.pc + 2 else s.pc)) := by
  show orRaise s (s.keyNamedBy x) _ = _
  rw [State.keyNamedBy_of_key h, orRaise_ok, State.skipIf_eq_setPc]

/-- ExA1 on a key writes pc alone, with the branches of Ex9E exchanged (46_keypad.md R171). -/
theorem exec_sknp_of_key {s : State} {x : Reg} {k : Fin 16} (h : (s.getV x).toNat = k.val) :
    exec (.sknp x) s = .next (s.setPc (if s.keys[k] = true then s.pc else s.pc + 2)) := by
  show orRaise s (s.keyNamedBy x) _ = _
  rw [State.keyNamedBy_of_key h, orRaise_ok, State.skipIf_eq_setPc]
  simp only [Bool.not_eq_true', ← Bool.not_eq_true, ite_not]

theorem exec_skp_of_no_key {s : State} {x : Reg} (h : 15 < (s.getV x).toNat) :
    exec (.skp x) s = .fault (.illegalKey s) := by
  show orRaise s (s.keyNamedBy x) _ = _
  rw [State.keyNamedBy_of_no_key h, orRaise_error, raise]

theorem exec_sknp_of_no_key {s : State} {x : Reg} (h : 15 < (s.getV x).toNat) :
    exec (.sknp x) s = .fault (.illegalKey s) := by
  show orRaise s (s.keyNamedBy x) _ = _
  rw [State.keyNamedBy_of_no_key h, orRaise_error, raise]

/-- Settles O48, from the words of format X and the two handlers' equations for an index that names a key and for one that does
not. -/
theorem skipsOnKeys : Obligations.SkipsOnKeys :=
  ⟨fun x => ⟨decode_skp x, decode_sknp x⟩,
    fun _ _ => ⟨fun _ hkey => ⟨exec_skp_of_key hkey, exec_sknp_of_key hkey⟩,
      fun hout => ⟨exec_skp_of_no_key hout, exec_sknp_of_no_key hout⟩⟩⟩

end Sys2Proof.Machine
end

section
/-! PROOFS. The timer instructions (47_timers.md R180, R181, R182): a timer write with its frame, the words and the handlers of
Fx07, Fx15 and Fx18 each as one equation, the host's BEEPING (49_host_interface.md R198), and the obligation on them. -/

namespace Sys2Proof.Machine

/-! ### One timer write -/

/-- The delay timer alone is written (10_state.md R29). -/
theorem State.setDT_eq_update (s : State) (b : Byte) : s.setDT b = { s with dt := b } := rfl

/-- The sound timer alone is written (10_state.md R29). -/
theorem State.setST_eq_update (s : State) (b : Byte) : s.setST b = { s with st := b } := rfl

/-! ### Decoding -/

theorem decode_ldVxDT (x : Reg) : decode (formatXNN 0xF#4 x 0x07#8) = .ok (.ldVxDT x) :=
  decode_eq_ok.2 (by simp [decode?, decodeMisc])

theorem decode_ldDTVx (x : Reg) : decode (formatXNN 0xF#4 x 0x15#8) = .ok (.ldDTVx x) :=
  decode_eq_ok.2 (by simp [decode?, decodeMisc])

theorem decode_ldSTVx (x : Reg) : decode (formatXNN 0xF#4 x 0x18#8) = .ok (.ldSTVx x) :=
  decode_eq_ok.2 (by simp [decode?, decodeMisc])

/-! ### The handlers and the command -/

/-- Fx07 is one register write, so the delay timer is kept (47_timers.md R180). -/
theorem exec_ldVxDT (x : Reg) (s : State) : exec (.ldVxDT x) s = .next (s.setV x s.dt) := rfl

theorem exec_ldDTVx (x : Reg) (s : State) : exec (.ldDTVx x) s = .next (s.setDT (s.getV x)) := rfl

theorem exec_ldSTVx (x : Reg) (s : State) : exec (.ldSTVx x) s = .next (s.setST (s.getV x)) := rfl

/-- BEEPING reads the sound timer and changes nothing (49_host_interface.md R198). -/
theorem command_beeping (s : State) : command .beeping s = (s, .bit (s.st != 0)) := rfl

/-- What BEEPING answers right after a write of the sound timer (47_timers.md R182). -/
theorem command_beeping_setST (s : State) (b : Byte) : (command .beeping (s.setST b)).2 = .bit (b != 0) := by
  rw [command_beeping, State.setST_st]

/-! ### The obligation -/

/-- Settles O50, from the words of format X and the handlers' equations: Fx07 is one register write, Fx15 and Fx18 one timer
write each, and BEEPING reads the sound timer so written. -/
theorem timerInstructionsMoveTheTimers : Obligations.TimerInstructionsMoveTheTimers := by
  refine ⟨fun x => ⟨decode_ldVxDT x, decode_ldDTVx x, decode_ldSTVx x⟩, fun x s => ⟨?_, ?_, ?_, ?_⟩⟩
  · exact ⟨_, exec_ldVxDT x s, s.setV_writes_only x s.dt⟩
  · rw [exec_ldDTVx, State.setDT_eq_update]
  · rw [exec_ldSTVx, State.setST_eq_update]
  · rw [← State.setST_eq_update, command_beeping_setST]

end Sys2Proof.Machine
end

section
/-! PROOFS. The host commands that read or set one field (49_host_interface.md R195 to R199): each as one equation, the generator
frozen at 0 (44_random.md R152), and the obligation on them. -/

namespace Sys2Proof.Machine

/-! ### The commands -/

/-- SET_KEYS replaces the whole snapshot and nothing else (49_host_interface.md R195). -/
theorem command_setKeys (snapshot : Vector Bool 16) (s : State) :
    command (.setKeys snapshot) s = ({ s with keys := snapshot }, .done) := rfl

/-- READ_FB hands out the framebuffer and changes nothing (49_host_interface.md R196). -/
theorem command_readFb (s : State) : command .readFb s = (s, .frame s.fb) := rfl

/-- TAKE_REDRAW answers the flag as it was before the command clears it (49_host_interface.md R197). -/
theorem command_takeRedraw (s : State) : command .takeRedraw s = ({ s with redraw := false }, .bit s.redraw) := rfl

/-- SEED sets the generator, 0 not excepted (49_host_interface.md R199; D28, log 14). -/
theorem command_seed (r : BitVec 32) (s : State) : command (.seed r) s = ({ s with rng := r }, .done) := rfl

/-! ### The generator at 0 -/

/-- 0 is a fixed point of the transform (44_random.md R152). -/
theorem xorshift_zero : xorshift 0 = 0 := by decide

/-- Writing back the generator's own value changes nothing. -/
theorem State.setRng_self (s : State) : s.setRng s.rng = s := rfl

/-- A generator at 0 draws 0 and leaves the whole state as it is (44_random.md R152). -/
theorem State.rand_of_rng_eq_zero {s : State} (h : s.rng = 0) : s.rand = (0, s) := by
  have hfix : xorshift s.rng = s.rng := by rw [h, xorshift_zero]
  rw [State.rand, hfix, State.setRng_self, h]
  rfl

/-- After SEED 0 every draw is 0 and leaves the state as SEED left it (D28, log 14). -/
theorem rand_command_seed_zero (s : State) : (command (.seed 0) s).1.rand = (0, (command (.seed 0) s).1) :=
  State.rand_of_rng_eq_zero (by rw [command_seed])

/-! ### The obligation -/

/-- Settles O52, from the equation of each command; SEED 0 freezes the generator because 0 is a fixed point of its transform. -/
theorem hostCommandsReadAndSet : Obligations.HostCommandsReadAndSet := fun s =>
  ⟨(command_setKeys · s), command_readFb s, command_takeRedraw s, command_beeping s, (command_seed · s),
    rand_command_seed_zero s⟩

end Sys2Proof.Machine
end

section
/-! PROOFS. The errors of a step (60_exceptions.md R213, R217): the register file's check as one equation, all a handler can raise,
and the obligation that IllegalRegister is none of it. -/

namespace Sys2Proof.Machine

/-! ### The register file's check -/

/-- The check fails with IllegalRegister only, for an index above 15 only (60_exceptions.md R213). -/
theorem registerPort_eq_error {index : Nat} {e : ErrorKind} :
    registerPort index = .error e ↔ 15 < index ∧ e = .illegalRegister := by
  unfold registerPort
  split <;> simp [eq_comm] <;> omega

/-! ### The handlers -/

/-- A handler that checks once and then writes raises what the check answered, in the state it started from. -/
theorem eq_raise_of_orRaise_next {α : Type} {s : State} {x : Except ErrorKind α} {go : α → State} {f : Fault}
    (h : orRaise s x (fun a => .next (go a)) = .fault f) : ∃ e, x = .error e ∧ raise e s = .fault f := by
  cases x with
  | ok a => cases h
  | error e => exact ⟨e, rfl, h⟩

/-- All a handler can raise: the error of its one check, on the stack, the memory or the keypad, with nothing changed
(60_exceptions.md R217, R219). -/
theorem exec_fault_cases {i : Instr} {s : State} {f : Fault} (h : exec i s = .fault f) :
    f = .stackUnderflow s ∨ f = .stackOverflow s ∨ f = .illegalAddress s ∨ f = .illegalKey s := by
  cases i with
  | ret =>
    obtain ⟨e, hpop, hraise⟩ := eq_raise_of_orRaise_next h
    obtain ⟨-, rfl⟩ := State.pop_eq_error.1 hpop
    cases hraise
    simp
  | call nnn =>
    obtain ⟨e, hpush, hraise⟩ := eq_raise_of_orRaise_next h
    obtain ⟨-, rfl⟩ := State.push_eq_error.1 hpush
    cases hraise
    simp
  | drw | load =>
    obtain ⟨e, hread, hraise⟩ := eq_raise_of_orRaise_next h
    obtain ⟨-, rfl⟩ := State.memRead_eq_error.1 hread
    cases hraise
    simp
  | ldB | store =>
    obtain ⟨e, hwrite, hraise⟩ := eq_raise_of_orRaise_next h
    obtain ⟨-, rfl⟩ := State.memWrite_eq_error.1 hwrite
    cases hraise
    simp
  | skp | sknp =>
    obtain ⟨e, hkey, hraise⟩ := eq_raise_of_orRaise_next h
    obtain ⟨-, rfl⟩ := State.keyNamedBy_eq_error.1 hkey
    cases hraise
    simp
  | ldVxK x =>
    simp only [exec, execLdVxK] at h
    split at h <;> cases h
  | _ => cases h

/-! ### The obligation -/

/-- Settles O10: a failing fetch, an unmatched word and every handler raise an error of another kind. -/
theorem stepNeverRaisesIllegalRegister : Obligations.StepNeverRaisesIllegalRegister := by
  refine ⟨fun index => by simp [registerPort_eq_error], fun s t h => ?_⟩
  obtain ⟨-, hstep⟩ | ⟨w, -, -, hstep⟩ | ⟨w, i, -, -, hstep⟩ := step_cases s
  · cases hstep.symm.trans h
  · cases hstep.symm.trans h
  · have hexec := exec_fault_cases (hstep.symm.trans h)
    simp at hexec

end Sys2Proof.Machine
end

section
/-! PROOFS. The encoder and the decoder (30_encoding.md R73 to R79, R84): decode of encode, encode of decode, the illegal words, the
agreement with the opcode table, and the obligations on them. -/

namespace Sys2Proof

/-! ### Decode of encode -/

/-- A 0nnn instruction that is neither 00E0 nor 00EE (30_encoding.md R75). -/
theorem Instr.wellFormed_sys {nnn : Addr} :
    (Instr.sys nnn).wellFormed = true ↔ nnn ≠ 0x0E0#12 ∧ nnn ≠ 0x0EE#12 := by
  simp [Instr.wellFormed]

/-- Two words of format NNN with one major opcode are equal when their addresses are. -/
theorem formatNNN_inj {a : BitVec 4} {nnn nnn' : Addr} : formatNNN a nnn = formatNNN a nnn' ↔ nnn = nnn' :=
  ⟨fun h => by simpa using congrArg fieldNNN h, congrArg (formatNNN a)⟩

theorem decodeZero_formatNNN {nnn : Addr} (h : (Instr.sys nnn).wellFormed = true) :
    decodeZero (formatNNN 0x0#4 nnn) = .sys nnn := by
  obtain ⟨hcls, hret⟩ := Instr.wellFormed_sys.1 h
  have hcls' : (0x00E0#16 : Word) = formatNNN 0x0#4 0x0E0#12 := by decide
  have hret' : (0x00EE#16 : Word) = formatNNN 0x0#4 0x0EE#12 := by decide
  rw [decodeZero, hcls', hret', if_neg (mt formatNNN_inj.1 hcls), if_neg (mt formatNNN_inj.1 hret), fieldNNN_formatNNN]

/-- The decoder reads every operand of a format back; only 0nnn has words of its shape that mean something else. -/
theorem decode?_encode {i : Instr} (h : i.wellFormed = true) : decode? (encode i) = some i := by
  cases i with
  | cls | ret => decide
  | sys nnn => simp [encode, decode?, decodeZero_formatNNN h]
  | _ => simp [encode, decode?, decodeAlu, decodeKey, decodeMisc]

theorem decode_encode {i : Instr} (h : i.wellFormed = true) : decode (encode i) = .ok i :=
  decode_eq_ok.2 (decode?_encode h)

theorem decodeBytes_encodeBytes {i : Instr} (h : i.wellFormed = true) (rest : List Byte) :
    decodeBytes (encodeBytes i ++ rest) = .ok (i, rest) := by
  simp [encodeBytes, decodeBytes, decode_encode h, Except.map]

/-- Settles O1: the fields of a format are its operands, and the two bytes of a word are the word. -/
theorem decodeOfEncodeIsTheInstruction : Obligations.DecodeOfEncodeIsTheInstruction :=
  fun _ rest h => ⟨decode_encode h, decodeBytes_encodeBytes h rest⟩

/-! ### Encode of decode -/

theorem eq_formatNNN_of_fieldA {w : Word} {a : BitVec 4} (ha : fieldA w = a) : formatNNN a (fieldNNN w) = w := by
  rw [← ha, formatNNN_fields]

theorem eq_formatXNN_of_fields {w : Word} {a : BitVec 4} {nn : Byte} (ha : fieldA w = a) (hnn : fieldNN w = nn) :
    formatXNN a (fieldX w) nn = w := by
  rw [← ha, ← hnn, formatXNN_fields]

theorem eq_formatXYN_of_fields {w : Word} {a n : BitVec 4} (ha : fieldA w = a) (hn : fieldN w = n) :
    formatXYN a (fieldX w) (fieldY w) n = w := by
  rw [← ha, ← hn, formatXYN_fields]

/-- `i` is well-formed and `w` is its word. -/
def IsWordOf (w : Word) (i : Instr) : Prop := i.wellFormed = true ∧ encode i = w

theorem isWordOf_decodeZero {w : Word} (ha : fieldA w = 0x0#4) : IsWordOf w (decodeZero w) := by
  unfold decodeZero
  split
  · exact ⟨rfl, Eq.symm ‹_›⟩
  · split
    · exact ⟨rfl, Eq.symm ‹_›⟩
    · have hw : formatNNN 0x0#4 (fieldNNN w) = w := eq_formatNNN_of_fieldA ha
      refine ⟨Instr.wellFormed_sys.2 ⟨fun h => ?_, fun h => ?_⟩, hw⟩ <;>
      · rw [h] at hw
        exact absurd hw.symm ‹_›

theorem isWordOf_of_decodeAlu {w : Word} {i : Instr} (ha : fieldA w = 0x8#4) (h : decodeAlu w = some i) :
    IsWordOf w i := by
  unfold decodeAlu at h
  split at h
  case h_10 => cases h
  all_goals
    obtain rfl := Option.some.inj h
    exact ⟨rfl, eq_formatXYN_of_fields ha (BitVec.eq_of_toNat_eq ‹_›)⟩

theorem isWordOf_of_decodeKey {w : Word} {i : Instr} (ha : fieldA w = 0xE#4) (h : decodeKey w = some i) :
    IsWordOf w i := by
  unfold decodeKey at h
  split at h
  case h_3 => cases h
  all_goals
    obtain rfl := Option.some.inj h
    exact ⟨rfl, eq_formatXNN_of_fields ha (BitVec.eq_of_toNat_eq ‹_›)⟩

theorem isWordOf_of_decodeMisc {w : Word} {i : Instr} (ha : fieldA w = 0xF#4) (h : decodeMisc w = some i) :
    IsWordOf w i := by
  unfold decodeMisc at h
  split at h
  case h_10 => cases h
  all_goals
    obtain rfl := Option.some.inj h
    exact ⟨rfl, eq_formatXNN_of_fields ha (BitVec.eq_of_toNat_eq ‹_›)⟩

theorem isWordOf_of_decode? {w : Word} {i : Instr} (h : decode? w = some i) : IsWordOf w i := by
  unfold decode? at h
  split at h
  case h_1 =>
    obtain rfl := Option.some.inj h
    exact isWordOf_decodeZero (BitVec.eq_of_toNat_eq ‹_›)
  case h_2 | h_3 | h_11 | h_12 =>
    obtain rfl := Option.some.inj h
    exact ⟨rfl, eq_formatNNN_of_fieldA (BitVec.eq_of_toNat_eq ‹_›)⟩
  case h_4 | h_5 | h_7 | h_8 | h_13 =>
    obtain rfl := Option.some.inj h
    exact ⟨rfl, eq_formatXNN_of_fields (BitVec.eq_of_toNat_eq ‹_›) rfl⟩
  case h_6 | h_10 =>
    obtain ⟨hn, h⟩ := Option.ite_none_right_eq_some.1 h
    obtain rfl := Option.some.inj h
    exact ⟨rfl, eq_formatXYN_of_fields (BitVec.eq_of_toNat_eq ‹_›) hn⟩
  case h_14 =>
    obtain rfl := Option.some.inj h
    exact ⟨rfl, eq_formatXYN_of_fields (BitVec.eq_of_toNat_eq ‹_›) rfl⟩
  case h_9 => exact isWordOf_of_decodeAlu (BitVec.eq_of_toNat_eq ‹_›) h
  case h_15 => exact isWordOf_of_decodeKey (BitVec.eq_of_toNat_eq ‹_›) h
  case h_16 =>
    have ha : (fieldA w).toNat = 15 := by simp only [imp_false] at *; omega
    exact isWordOf_of_decodeMisc (BitVec.eq_of_toNat_eq ha) h

/-- Settles O2, from the decoder's branches: each names the operands its format holds, so the format of the operands is the word. -/
theorem encodeOfDecodeIsTheWord : Obligations.EncodeOfDecodeIsTheWord :=
  fun _ _ h => isWordOf_of_decode? (decode_eq_ok.1 h)

/-! ### The illegal words -/

theorem nibble_cases (a : BitVec 4) : a = 0x0#4 ∨ a = 0x1#4 ∨ a = 0x2#4 ∨ a = 0x3#4 ∨ a = 0x4#4 ∨ a = 0x5#4 ∨ a = 0x6#4 ∨
    a = 0x7#4 ∨ a = 0x8#4 ∨ a = 0x9#4 ∨ a = 0xA#4 ∨ a = 0xB#4 ∨ a = 0xC#4 ∨ a = 0xD#4 ∨ a = 0xE#4 ∨ a = 0xF#4 := by
  revert a
  decide

theorem decodeAlu_eq_none {w : Word} :
    decodeAlu w = none ↔ fieldN w ∈ [0x8#4, 0x9#4, 0xA#4, 0xB#4, 0xC#4, 0xD#4, 0xF#4] := by
  rcases nibble_cases (fieldN w) with h | h | h | h | h | h | h | h | h | h | h | h | h | h | h | h <;>
    simp [decodeAlu, h]

theorem decodeKey_eq_none {w : Word} : decodeKey w = none ↔ fieldNN w ∉ [0x9E#8, 0xA1#8] := by
  unfold decodeKey
  split <;> simp_all [← BitVec.toNat_inj]

theorem decodeMisc_eq_none {w : Word} :
    decodeMisc w = none ↔
      fieldNN w ∉ [0x07#8, 0x0A#8, 0x15#8, 0x18#8, 0x1E#8, 0x29#8, 0x33#8, 0x55#8, 0x65#8] := by
  unfold decodeMisc
  split <;> simp_all [← BitVec.toNat_inj]

/-- Settles O3, by the major opcode: the branches that can reject are those of 5, 8, 9, E and F. -/
theorem illegalWordsAreExactlyThese : Obligations.IllegalWordsAreExactlyThese := by
  intro w
  rw [decode_eq_error, and_iff_left rfl, ← decodeAlu_eq_none, ← decodeKey_eq_none, ← decodeMisc_eq_none]
  rcases nibble_cases (fieldA w) with h | h | h | h | h | h | h | h | h | h | h | h | h | h | h | h <;>
    simp [decode?, h]

/-! ### Fields of a literal word -/

theorem fieldA_ofNat (n : Nat) : fieldA (BitVec.ofNat 16 n) = BitVec.ofNat 4 (n / 4096) := by
  refine BitVec.eq_of_toNat_eq ?_
  simp [fieldA, Nat.shiftRight_eq_div_pow]
  omega

theorem fieldN_ofNat (n : Nat) : fieldN (BitVec.ofNat 16 n) = BitVec.ofNat 4 n := by
  refine BitVec.eq_of_toNat_eq ?_
  simp [fieldN]

theorem fieldNN_ofNat (n : Nat) : fieldNN (BitVec.ofNat 16 n) = BitVec.ofNat 8 n := by
  refine BitVec.eq_of_toNat_eq ?_
  simp [fieldNN]

/-! ### A masked word -/

theorem and_F000 (w : Word) : w &&& 0xF000#16 = formatNNN (fieldA w) 0#12 := by
  conv_lhs => rw [← formatNNN_fields w, Laws.mask_formatNNN]

theorem and_F00F (w : Word) : w &&& 0xF00F#16 = formatXYN (fieldA w) 0 0 (fieldN w) := by
  conv_lhs => rw [← formatXYN_fields w, Laws.mask_formatXY]

theorem and_F0FF (w : Word) : w &&& 0xF0FF#16 = formatXNN (fieldA w) 0 (fieldNN w) := by
  conv_lhs => rw [← formatXNN_fields w, Laws.mask_formatX]

/-- A row with mask FFFF asks for the one word. -/
theorem and_FFFF (w : Word) : w &&& 0xFFFF#16 = w := BitVec.and_allOnes

/-- A row with mask F000 asks for its major opcode. -/
theorem and_F000_eq_iff {w r : Word} (hr : r &&& 0xF000#16 = r) : w &&& 0xF000#16 = r ↔ fieldA w = fieldA r :=
  ⟨fun h => by simp [← h, and_F000], fun h => by rw [and_F000, h, ← and_F000, hr]⟩

/-- A row with mask F00F asks for its major opcode and its `n`. -/
theorem and_F00F_eq_iff {w r : Word} (hr : r &&& 0xF00F#16 = r) :
    w &&& 0xF00F#16 = r ↔ fieldA w = fieldA r ∧ fieldN w = fieldN r :=
  ⟨fun h => by simp [← h, and_F00F], fun ⟨ha, hn⟩ => by rw [and_F00F, ha, hn, ← and_F00F, hr]⟩

/-- A row with mask F0FF asks for its major opcode and its `nn`. -/
theorem and_F0FF_eq_iff {w r : Word} (hr : r &&& 0xF0FF#16 = r) :
    w &&& 0xF0FF#16 = r ↔ fieldA w = fieldA r ∧ fieldNN w = fieldNN r :=
  ⟨fun h => by simp [← h, and_F0FF], fun ⟨ha, hnn⟩ => by rw [and_F0FF, ha, hnn, ← and_F0FF, hr]⟩

/-! ### The rows of the decoder's branches -/

theorem row_decodeZero (w : Word) :
    some (decodeZero w).row =
      if w = 0x00E0#16 then some ⟨0xFFFF#16, 0x00E0#16⟩ else if w = 0x00EE#16 then some ⟨0xFFFF#16, 0x00EE#16⟩
      else some ⟨0xF000#16, 0x0000#16⟩ := by
  unfold decodeZero
  split
  · rfl
  · split <;> rfl

theorem row_decodeAlu (w : Word) :
    (decodeAlu w).map Instr.row =
      if fieldN w = 0x0#4 then some ⟨0xF00F#16, 0x8000#16⟩ else if fieldN w = 0x1#4 then some ⟨0xF00F#16, 0x8001#16⟩
      else if fieldN w = 0x2#4 then some ⟨0xF00F#16, 0x8002#16⟩ else if fieldN w = 0x3#4 then some ⟨0xF00F#16, 0x8003#16⟩
      else if fieldN w = 0x4#4 then some ⟨0xF00F#16, 0x8004#16⟩ else if fieldN w = 0x5#4 then some ⟨0xF00F#16, 0x8005#16⟩
      else if fieldN w = 0x6#4 then some ⟨0xF00F#16, 0x8006#16⟩ else if fieldN w = 0x7#4 then some ⟨0xF00F#16, 0x8007#16⟩
      else if fieldN w = 0xE#4 then some ⟨0xF00F#16, 0x800E#16⟩ else none := by
  unfold decodeAlu
  split <;> simp_all [← BitVec.toNat_inj, Instr.row]

theorem row_decodeKey (w : Word) :
    (decodeKey w).map Instr.row =
      if fieldNN w = 0x9E#8 then some ⟨0xF0FF#16, 0xE09E#16⟩ else if fieldNN w = 0xA1#8 then some ⟨0xF0FF#16, 0xE0A1#16⟩
      else none := by
  unfold decodeKey
  split <;> simp_all [← BitVec.toNat_inj, Instr.row]

theorem row_decodeMisc (w : Word) :
    (decodeMisc w).map Instr.row =
      if fieldNN w = 0x07#8 then some ⟨0xF0FF#16, 0xF007#16⟩ else if fieldNN w = 0x0A#8 then some ⟨0xF0FF#16, 0xF00A#16⟩
      else if fieldNN w = 0x15#8 then some ⟨0xF0FF#16, 0xF015#16⟩ else if fieldNN w = 0x18#8 then some ⟨0xF0FF#16, 0xF018#16⟩
      else if fieldNN w = 0x1E#8 then some ⟨0xF0FF#16, 0xF01E#16⟩ else if fieldNN w = 0x29#8 then some ⟨0xF0FF#16, 0xF029#16⟩
      else if fieldNN w = 0x33#8 then some ⟨0xF0FF#16, 0xF033#16⟩ else if fieldNN w = 0x55#8 then some ⟨0xF0FF#16, 0xF055#16⟩
      else if fieldNN w = 0x65#8 then some ⟨0xF0FF#16, 0xF065#16⟩ else none := by
  unfold decodeMisc
  split <;> simp_all [← BitVec.toNat_inj, Instr.row]

/-! ### The table -/

theorem find?_cons_eq_ite {α : Type} (p : α → Bool) (a : α) (l : List α) :
    (a :: l).find? p = if p a = true then some a else l.find? p := by
  cases h : p a <;> simp [h]

/-- A row's major opcode is fixed in full, so only the rows with the word's major opcode can match it. -/
theorem tableRow?_eq_find?_filter (w : Word) :
    tableRow? w = (opcodeTable.filter fun r => fieldA r.bits == fieldA w).find? fun r => w &&& r.mask == r.bits := by
  have hmask : ∀ r ∈ opcodeTable, fieldA r.mask = 0xF#4 := by decide
  rw [List.find?_filter, tableRow?]
  refine List.find?_congr fun r hr => ?_
  rw [Bool.eq_iff_iff]
  simp only [beq_iff_eq, decide_eq_true_eq]
  refine ⟨fun h => ⟨?_, h⟩, fun h => h.2⟩
  rw [← h, ← formatNNN_fields w, ← formatNNN_fields r.mask, Laws.formatNNN_and, hmask r hr, fieldA_formatNNN,
    fieldA_formatNNN]
  exact BitVec.and_allOnes

/-- Settles O4, by the major opcode: it leaves at most nine rows of the table, and these are told apart as the decoder's branch for
the major opcode tells its words apart. -/
theorem decoderAgreesWithOpcodeTable : Obligations.DecoderAgreesWithOpcodeTable := by
  intro w
  rw [tableRow?_eq_find?_filter]
  rcases nibble_cases (fieldA w) with h | h | h | h | h | h | h | h | h | h | h | h | h | h | h | h <;>
    simp [h, decode?, Instr.row, ↓row_decodeZero, row_decodeAlu, row_decodeKey, row_decodeMisc, opcodeTable, fieldA_ofNat,
      fieldN_ofNat, fieldNN_ofNat, find?_cons_eq_ite, and_FFFF, and_F000_eq_iff, and_F00F_eq_iff, and_F0FF_eq_iff]

/-! ### Sample words -/

/-- Settles O5, by running the decoder on the eight words. -/
theorem sampleWordsDecode : Obligations.SampleWordsDecode := by
  unfold Obligations.SampleWordsDecode
  decide

end Sys2Proof
end

section
/-! PROOFS. The instruction cycle (30_encoding.md R72; 20_memory.md R55, R56): the fetched word, the step of a word that decodes and
of one that does not, a placed word, and the obligations on them. -/

namespace Sys2Proof

/-- Two bytes put together, the first one high (20_memory.md R56). -/
theorem toNat_wordOfBytes (first second : Byte) :
    (wordOfBytes first second).toNat = 256 * first.toNat + second.toNat := by
  rw [wordOfBytes, BitVec.toNat_append, ← Nat.shiftLeft_add_eq_or_of_lt second.isLt, Nat.shiftLeft_eq]
  omega

/-- The word a table row is read from is laid out in two bytes and put together again (30_encoding.md R70; 20_memory.md R56). -/
theorem decode_of_decodeTableWord {nbits w : Nat} {i : Instr} (h : decodeTableWord nbits w = some i) :
    decode (BitVec.ofNat 16 (w % 2 ^ nbits)) = .ok i := by
  simp only [decodeTableWord, decodeBytes, wordOfBytes_bytes] at h
  cases hd : decode (BitVec.ofNat 16 (w % 2 ^ nbits)) with
  | error e => simp [hd, Except.map] at h
  | ok j => simpa [hd, Except.map] using h

end Sys2Proof

namespace Sys2Proof.Machine

/-! ### Fetch -/

/-- The word of the two bytes MemRead gives (20_memory.md R55, R56). -/
theorem State.fetch_of_memRead {s : State} {b0 b1 : Byte} (h : s.memRead s.pc.toNat 2 = .ok [b0, b1]) :
    s.fetch = .ok (wordOfBytes b0 b1) := by
  rw [State.fetch_eq_memRead, h]
  rfl

/-- Settles O7, by the two sides of the bound on `pc + 2`. -/
theorem fetchIsMemReadOfTwoBytes : Obligations.FetchIsMemReadOfTwoBytes := by
  refine fun s => ⟨fun hpc => ?_, fun hpc => ⟨State.memRead_eq_error.2 ⟨by omega, rfl⟩, step_of_fetch_outside hpc⟩⟩
  have hread : s.memRead s.pc.toNat 2 = .ok [s.readByte s.pc.toNat, s.readByte (s.pc.toNat + 1)] :=
    State.memRead_eq_ok.2 ⟨by omega, rfl⟩
  exact ⟨_, _, hread, State.fetch_of_memRead hread⟩

/-- Settles O8, from the bytes of the fetched word. -/
theorem fetchedWordIsBigEndian : Obligations.FetchedWordIsBigEndian := by
  intro s w h
  obtain ⟨-, rfl⟩ := State.fetch_eq_ok.1 h
  exact toNat_wordOfBytes _ _

/-! ### The step -/

/-- A word no pattern matches stops the step with pc advanced (30_encoding.md R72, R78). -/
theorem step_of_decode_error {s : State} {w : Word} {e : DecodeError} (hf : s.fetch = .ok w) (hd : decode w = .error e) :
    step s = .fault (.illegalInstruction w s.advance) := by
  simp [step, hf, hd, raise]

/-- Settles O6, from the three cases of the step: fetch fails, no pattern matches, a handler runs. -/
theorem stepIsTheInstructionCycle : Obligations.StepIsTheInstructionCycle := by
  refine fun s => ⟨fun hpc => step_of_fetch_outside (by omega), fun b0 b1 hread => ?_⟩
  have hfetch := State.fetch_of_memRead hread
  exact ⟨fun _ => step_of_decode_error hfetch, fun _ => step_of_decode hfetch⟩

/-! ### A store seen as a write of memory alone -/

theorem State.onlyMem_of_memWrite {s t : State} {a : Nat} {bytes : List Byte} (h : s.memWrite a bytes = .ok t) :
    s.onlyMem t := by
  obtain ⟨-, rfl⟩ := State.memWrite_eq_ok.1 h
  rfl

theorem State.memOutside_of_memWrite {s t : State} {a : Nat} {bytes : List Byte} (hm : Memory.wf s.config s.mem = true)
    (h : s.memWrite a bytes = .ok t) : s.memOutside t a bytes.length := by
  intro b hb
  rw [State.readByte_memWrite hm h, if_neg (by omega)]

theorem State.readByte_memWrite_add {s t : State} {a k : Nat} {bytes : List Byte} (hm : Memory.wf s.config s.mem = true)
    (h : s.memWrite a bytes = .ok t) (hk : k < bytes.length) : t.readByte (a + k) = bytes.getD k 0 := by
  rw [State.readByte_memWrite hm h, if_pos (by omega), Nat.add_sub_cancel_left]

/-! ### A placed word -/

/-- Placing a word is one store of its two bytes at pc. -/
theorem State.memWrite_withFetchWord {s : State} (nbits w : Nat) (hpc : s.pc.toNat ≤ 4094) :
    s.memWrite s.pc.toNat
        [firstByte (BitVec.ofNat 16 (w % 2 ^ nbits)), secondByte (BitVec.ofNat 16 (w % 2 ^ nbits))] =
      .ok (s.withFetchWord nbits w) := by
  unfold State.withFetchWord
  cases hwrite : s.memWrite s.pc.toNat
      [firstByte (BitVec.ofNat 16 (w % 2 ^ nbits)), secondByte (BitVec.ofNat 16 (w % 2 ^ nbits))] with
  | ok t => simp only [hwrite]
  | error e =>
    obtain ⟨hout, -⟩ := State.memWrite_eq_error.1 hwrite
    simp only [List.length_cons, List.length_nil] at hout
    omega

theorem State.fetch_of_stored_word {s t : State} {w : Word} (hm : Memory.wf s.config s.mem = true)
    (h : s.memWrite s.pc.toNat [firstByte w, secondByte w] = .ok t) : t.fetch = .ok w := by
  have hfirst : t.readByte s.pc.toNat = firstByte w := State.readByte_memWrite_add (k := 0) hm h (by simp)
  have hsecond : t.readByte (s.pc.toNat + 1) = secondByte w := State.readByte_memWrite_add (k := 1) hm h (by simp)
  obtain ⟨hle, rfl⟩ := State.memWrite_eq_ok.1 h
  refine State.fetch_eq_ok.2 ⟨hle, ?_⟩
  rw [State.setMem_pc, hfirst, hsecond, wordOfBytes_bytes]

/-- Settles O9: placing is a store of the word's two bytes at pc, so the fetch after it gives the word. -/
theorem placedWordIsWhatStepRuns : Obligations.PlacedWordIsWhatStepRuns := by
  intro s w i hm hpc hdecode
  have hwrite := State.memWrite_withFetchWord 16 w hpc
  have hfetch := State.fetch_of_stored_word hm hwrite
  exact ⟨step_of_decode hfetch (decode_of_decodeTableWord hdecode), State.onlyMem_of_memWrite hwrite,
    State.memOutside_of_memWrite hm hwrite⟩

end Sys2Proof.Machine
end

section
/-! PROOFS. The errors of a step (60_exceptions.md R217, R218, R219): no handler is refused, which handler raises which error and in
which state, what an error leaves, and the obligations on them. -/

namespace Sys2Proof.Machine

/-! ### Handlers -/

/-- Every arm of the dispatch has a meaning. -/
theorem exec_ne_refused (i : Instr) (s : State) (r : Refusal) : exec i s ≠ .refused r := by
  intro h
  cases i with
  | ret | call | drw | ldB | store | load | skp | sknp =>
    obtain ⟨a, -, hnext⟩ := orRaise_eq_refused.1 h
    cases hnext
  | ldVxK x =>
    simp only [exec, execLdVxK] at h
    split at h <;> cases h
  | _ => cases h

/-- A handler that checks once and then writes faults exactly when its check fails, with the check's one error. -/
theorem orRaise_next_eq_fault {α : Type} {s : State} {x : Except ErrorKind α} {go : α → State} {P : Prop} {e : ErrorKind}
    {f g : Fault} (hx : ∀ e', x = .error e' ↔ P ∧ e' = e) (hraise : raise e s = .fault g) :
    orRaise s x (fun a => .next (go a)) = .fault f ↔ P ∧ f = g := by
  constructor
  · intro h
    obtain ⟨e', hxe, hraise'⟩ := eq_raise_of_orRaise_next h
    obtain ⟨hP, rfl⟩ := (hx e').1 hxe
    cases hraise.symm.trans hraise'
    exact ⟨hP, rfl⟩
  · rintro ⟨hP, rfl⟩
    rw [(hx e).2 ⟨hP, rfl⟩, orRaise_error, hraise]

theorem exec_ret_eq_fault {s : State} {f : Fault} : exec .ret s = .fault f ↔ s.sp.val = 0 ∧ f = .stackUnderflow s :=
  orRaise_next_eq_fault (fun _ => State.pop_eq_error) rfl

theorem exec_call_eq_fault {nnn : Addr} {s : State} {f : Fault} :
    exec (.call nnn) s = .fault f ↔ s.sp.val = 16 ∧ f = .stackOverflow s :=
  orRaise_next_eq_fault (fun _ => State.push_eq_error) rfl

theorem exec_drw_eq_fault {x y : Reg} {n : Nibble} {s : State} {f : Fault} :
    exec (.drw x y n) s = .fault f ↔ 4096 < s.i.toNat + n.toNat ∧ f = .illegalAddress s :=
  orRaise_next_eq_fault (fun _ => State.memRead_eq_error) rfl

theorem exec_ldB_eq_fault {x : Reg} {s : State} {f : Fault} :
    exec (.ldB x) s = .fault f ↔ 4096 < s.i.toNat + 3 ∧ f = .illegalAddress s :=
  orRaise_next_eq_fault (fun _ => State.memWrite_eq_error) rfl

theorem exec_store_eq_fault {x : Reg} {s : State} {f : Fault} :
    exec (.store x) s = .fault f ↔ 4096 < s.i.toNat + x.val + 1 ∧ f = .illegalAddress s :=
  orRaise_next_eq_fault (fun _ => by rw [State.memWrite_eq_error, State.length_regsUpTo, ← Nat.add_assoc]) rfl

theorem exec_load_eq_fault {x : Reg} {s : State} {f : Fault} :
    exec (.load x) s = .fault f ↔ 4096 < s.i.toNat + x.val + 1 ∧ f = .illegalAddress s :=
  orRaise_next_eq_fault (fun _ => State.memRead_eq_error) rfl

theorem exec_skp_eq_fault {x : Reg} {s : State} {f : Fault} :
    exec (.skp x) s = .fault f ↔ 15 < (s.getV x).toNat ∧ f = .illegalKey s :=
  orRaise_next_eq_fault (fun _ => State.keyNamedBy_eq_error) rfl

theorem exec_sknp_eq_fault {x : Reg} {s : State} {f : Fault} :
    exec (.sknp x) s = .fault f ↔ 15 < (s.getV x).toNat ∧ f = .illegalKey s :=
  orRaise_next_eq_fault (fun _ => State.keyNamedBy_eq_error) rfl

/-- The instructions that can fault are these eight (60_exceptions.md R217). -/
theorem faulting_of_exec_eq_fault {i : Instr} {s : State} {f : Fault} (h : exec i s = .fault f) :
    i = .ret ∨ (∃ nnn, i = .call nnn) ∨ (∃ x y n, i = .drw x y n) ∨ (∃ x, i = .ldB x) ∨ (∃ x, i = .store x) ∨
      (∃ x, i = .load x) ∨ (∃ x, i = .skp x) ∨ ∃ x, i = .sknp x := by
  cases i with
  | ret | call | drw | ldB | store | load | skp | sknp => simp
  | ldVxK x =>
    simp only [exec, execLdVxK] at h
    split at h <;> cases h
  | _ => cases h

/-- Settles O13, from the one check of each of the eight handlers. -/
theorem handlersRaiseExactlyThese : Obligations.HandlersRaiseExactlyThese := fun _ _ =>
  ⟨exec_ret_eq_fault, fun _ => exec_call_eq_fault, fun _ _ _ => exec_drw_eq_fault, fun _ => exec_ldB_eq_fault,
    fun _ => exec_store_eq_fault, fun _ => exec_load_eq_fault, fun _ => exec_skp_eq_fault, fun _ => exec_sknp_eq_fault,
    fun _ => faulting_of_exec_eq_fault⟩

/-! ### The step -/

/-- A handler's error leaves the state the handler started from (60_exceptions.md R219; D10, log 9). -/
theorem after_of_exec_eq_fault {i : Instr} {s : State} {f : Fault} (h : exec i s = .fault f) : f.after = s := by
  obtain rfl | rfl | rfl | rfl := exec_fault_cases h <;> rfl

/-- Settles O11, by the three cases of the step. -/
theorem stepIsNeverRefused : Obligations.StepIsNeverRefused := by
  intro s r h
  obtain ⟨-, hstep⟩ | ⟨w, -, -, hstep⟩ | ⟨w, i, -, -, hstep⟩ := step_cases s
  · cases hstep.symm.trans h
  · cases hstep.symm.trans h
  · exact exec_ne_refused i s.advance r (hstep.symm.trans h)

/-- Settles O12, by the three cases of the step: the fetch checks before pc is advanced, all else comes after. -/
theorem errorsArePrecise : Obligations.ErrorsArePrecise := by
  intro s f h
  obtain ⟨hout, hstep⟩ | ⟨w, hfetch, -, hstep⟩ | ⟨w, i, hfetch, -, hstep⟩ := step_cases s
  · cases hstep.symm.trans h
    exact .inl ⟨by omega, rfl⟩
  · obtain ⟨hin, -⟩ := State.fetch_eq_ok.1 hfetch
    cases hstep.symm.trans h
    exact .inr ⟨by omega, rfl⟩
  · obtain ⟨hin, -⟩ := State.fetch_eq_ok.1 hfetch
    exact .inr ⟨by omega, after_of_exec_eq_fault (hstep.symm.trans h)⟩

/-! ### The command -/

/-- STEP answers `Err` exactly when the step faults (60_exceptions.md R218). -/
theorem stepCommand_eq_err {s : State} {e : ErrorKind} (h : (stepCommand s).2 = .err e) :
    ∃ f, step s = .fault f ∧ (stepCommand s).1 = f.after := by
  unfold stepCommand at h ⊢
  cases hstep : step s with
  | fault f => exact ⟨f, rfl, rfl⟩
  | next t => simp [hstep] at h
  | refused r => simp [hstep] at h

theorem command_step_of_fetch_outside {s : State} (hpc : 4095 ≤ s.pc.toNat) :
    command .step s = (s, .err .illegalAddress) := by
  show stepCommand s = _
  rw [stepCommand, step_of_fetch_outside hpc]
  rfl

/-- A command that changes nothing, given `n` times, answers alike `n` times. -/
theorem commands_replicate_of_fixed {c : Command} {s : State} {r : Response} (h : command c s = (s, r)) (n : Nat) :
    commands (List.replicate n c) s = (s, List.replicate n r) := by
  induction n with
  | zero => rfl
  | succ n ih => simp only [List.replicate_succ, commands, h, ih]

/-- Settles O14: a fetch error changes nothing, so the next STEP meets it again; any other leaves pc advanced (60_exceptions.md R219). -/
theorem stepCommandGoesOnAfterAnError : Obligations.StepCommandGoesOnAfterAnError := by
  refine fun s => ⟨fun hpc => commands_replicate_of_fixed (command_step_of_fetch_outside hpc), fun hpc e herr => ?_⟩
  obtain ⟨f, hstep, hafter⟩ := stepCommand_eq_err herr
  obtain ⟨hout, -⟩ | ⟨-, hadvanced⟩ := errorsArePrecise s f hstep
  · omega
  · exact hafter.trans hadvanced

end Sys2Proof.Machine
end

section
/-! PROOFS. What an instruction that answers next can have done (10_state.md R20, the "Written by" column; R25), said once, and what
follows from it: the frames of the registers, of memory and of all other state (00_scope.md R11), the invariant of the machine
(10_state.md R24; 40_flow.md R102), and the obligations on them. -/

namespace Sys2Proof.Machine

/-! ### The effects of an instruction -/

/-- All that instruction `i`, run in state `s`, can have done when it answers next: the state it leaves, by the part of the state
that is written (10_state.md R20). -/
inductive Effect (s : State) : Instr → State → Prop where
  /-- Nothing but registers the instruction may write. -/
  | registers {i : Instr} (v : Vector Byte 16) (kept : ∀ r, ¬i.mayWriteV r → (s.setRegs v).getV r = s.getV r) :
      Effect s i (s.setRegs v)
  | random (x : Reg) (nn : Byte) (w : BitVec 32) (b : Byte) : Effect s (.rnd x nn) ((s.setRng w).setV x b)
  | jump (nnn : Addr) : Effect s (.jp nnn) (s.setPc (zextAddr nnn))
  | jumpV0 (nnn : Addr) (b : Byte) : Effect s (.jpV0 nnn) (s.setPc (zextAddr nnn + zextByte b))
  | skip {i : Instr} (c : Bool)
      (writer : (∃ x nn, i = .seImm x nn) ∨ (∃ x nn, i = .sneImm x nn) ∨ (∃ x y, i = .seReg x y) ∨
        (∃ x y, i = .sneReg x y) ∨ (∃ x, i = .skp x) ∨ ∃ x, i = .sknp x) : Effect s i (s.skipIf c)
  | wait (x : Reg) : Effect s (.ldVxK x) s.rewind
  | call (nnn : Addr) (k : Fin 16) (n : Fin 17) :
      Effect s (.call nnn) ((s.setStack (s.stack.set k s.pc) n).setPc (zextAddr nnn))
  | ret (k : Fin 16) (n : Fin 17) : Effect s .ret ((s.setStack s.stack n).setPc s.stack[k])
  | index {i : Instr} (w : Word) (writer : (∃ nnn, i = .ldI nnn) ∨ (∃ x, i = .addI x) ∨ ∃ x, i = .ldF x) :
      Effect s i (s.setI w)
  | delay (x : Reg) (b : Byte) : Effect s (.ldDTVx x) (s.setDT b)
  | sound (x : Reg) (b : Byte) : Effect s (.ldSTVx x) (s.setST b)
  | clear : Effect s .cls s.clear
  | draw (x y : Reg) (n : Nibble) (fb : Vector Byte 256) (hit : Bool) :
      Effect s (.drw x y n) (((s.setFb fb).setFlag hit).setRedraw true)
  /-- The bytes the instruction stores at `I` (20_memory.md R58). -/
  | stored {i : Instr} {t : State} (bytes : List Byte) (length : bytes.length = i.storeBytes)
      (write : s.memWrite s.i.toNat bytes = .ok t) : Effect s i t

theorem Effect.setV (s : State) {i : Instr} {x : Reg} (b : Byte) (h : ∀ r, r = x → i.mayWriteV r) :
    Effect s i (s.setV x b) :=
  .registers _ fun r hr => s.getV_setV_ne b (mt (h r) hr)

/-- Two register writes, in either order, one of them to VF (10_state.md R26). -/
theorem Effect.setV_setV (s : State) {i : Instr} {x y : Reg} (b c : Byte) (h : ∀ r, r = x ∨ r = y → i.mayWriteV r) :
    Effect s i ((s.setV x b).setV y c) :=
  .registers _ fun r hr => ((s.setV x b).getV_setV_ne c (mt (h r ∘ .inr) hr)).trans (s.getV_setV_ne b (mt (h r ∘ .inl) hr))

/-- Fx65 writes V0 to Vx and no other register (43_index_memory.md R145). -/
theorem getV_setRegs_writeRegs_of_lt (s : State) {x r : Reg} {bytes : List Byte} (hlen : bytes.length = x.val + 1)
    (h : x.val < r.val) : (s.setRegs (writeRegs s.v 0 bytes)).getV r = s.getV r := by
  show (writeRegs s.v 0 bytes)[r.val] = s.v[r.val]
  rw [writeRegs_getElem, if_neg (by omega)]

theorem exec_effect {i : Instr} {s t : State} (h : exec i s = .next t) : Effect s i t := by
  cases i with
  | sys nnn =>
    cases h
    exact .registers s.v fun _ _ => rfl
  | ldImm | addImm | ldReg | orReg | andReg | xorReg | ldVxDT =>
    cases h
    exact .setV s _ fun _ => id
  | addReg | subReg | subnReg =>
    cases h
    exact .setV_setV s _ _ fun _ => id
  | shr | shl =>
    cases h
    exact .setV_setV s _ _ fun _ => Or.symm
  | rnd x nn =>
    cases h
    exact .random x nn _ _
  | jp nnn =>
    cases h
    exact .jump nnn
  | jpV0 nnn =>
    cases h
    exact .jumpV0 nnn _
  | seImm | sneImm | seReg | sneReg =>
    cases h
    exact .skip _ (by simp)
  | skp | sknp =>
    obtain ⟨down, -, hnext⟩ := orRaise_eq_next.1 h
    cases hnext
    exact .skip _ (by simp)
  | ldVxK x =>
    simp only [exec, execLdVxK] at h
    split at h
    · cases h
      exact .wait x
    · cases h
      exact .setV s _ fun _ => id
  | call nnn =>
    obtain ⟨u, hpush, hnext⟩ := orRaise_eq_next.1 h
    obtain ⟨hsp, rfl⟩ := State.push_eq_ok.1 hpush
    cases hnext
    exact .call nnn ⟨s.sp.val, hsp⟩ _
  | ret =>
    obtain ⟨r, hpop, hnext⟩ := orRaise_eq_next.1 h
    obtain ⟨hsp, rfl⟩ := State.pop_eq_ok.1 hpop
    cases hnext
    exact .ret ⟨s.sp.val - 1, by omega⟩ _
  | ldI | addI | ldF =>
    cases h
    exact .index _ (by simp)
  | ldDTVx x =>
    cases h
    exact .delay x _
  | ldSTVx x =>
    cases h
    exact .sound x _
  | cls =>
    cases h
    exact .clear
  | drw x y n =>
    obtain ⟨rows, -, hnext⟩ := orRaise_eq_next.1 h
    cases hnext
    exact .draw x y n _ _
  | load x =>
    obtain ⟨bytes, hread, hnext⟩ := orRaise_eq_next.1 h
    obtain ⟨-, rfl⟩ := State.memRead_eq_ok.1 hread
    cases hnext
    exact .registers _ fun r hr => getV_setRegs_writeRegs_of_lt s (Memory.length_readList ..) (Nat.lt_of_not_le hr)
  | ldB x =>
    obtain ⟨u, hwrite, hnext⟩ := orRaise_eq_next.1 h
    cases hnext
    exact .stored _ (length_decimalDigits _) hwrite
  | store x =>
    obtain ⟨u, hwrite, hnext⟩ := orRaise_eq_next.1 h
    cases hnext
    exact .stored _ (s.length_regsUpTo x) hwrite

/-! ### Frames -/

/-- Settles O56: only the effects on registers, on the generator's register and on VF write a register. -/
theorem otherRegistersAreKept : Obligations.OtherRegistersAreKept := by
  intro i s t r h hr
  cases exec_effect h with
  | registers v kept => exact kept r hr
  | random x nn w b => exact State.getV_setV_ne _ b hr
  | draw x y n fb hit => exact State.getV_setFlag_ne (s.setFb fb) hit hr
  | stored bytes length write =>
    obtain ⟨-, rfl⟩ := State.memWrite_eq_ok.1 write
    rfl
  | _ => exact State.getV_congr (by simp) r

/-- Settles O57: only a store writes memory. -/
theorem otherBytesAreKept : Obligations.OtherBytesAreKept := by
  intro i s t hm h
  cases exec_effect h with
  | stored bytes length write => exact length ▸ State.memOutside_of_memWrite hm write
  | _ => exact fun a _ => State.readByte_congr (by simp) (by simp) a

/-- Settles O58: every effect names the fields it writes, and the instructions that have it. -/
theorem specialStateIsWrittenOnlyByItsInstructions : Obligations.SpecialStateIsWrittenOnlyByItsInstructions := by
  intro i s t h
  cases exec_effect h with
  | stored bytes length write =>
    obtain ⟨-, rfl⟩ := State.memWrite_eq_ok.1 write
    simp
  | skip c writer =>
    obtain ⟨_, _, rfl⟩ | ⟨_, _, rfl⟩ | ⟨_, _, rfl⟩ | ⟨_, _, rfl⟩ | ⟨_, rfl⟩ | ⟨_, rfl⟩ := writer <;> simp
  | index w writer => simp [writer]
  | _ => simp

/-! ### The invariant after a write -/

/-- The invariant speaks of memory, pc and the stack alone. -/
theorem State.Inv.congr {s t : State} (h : s.Inv) (hconfig : t.config = s.config) (hmem : t.mem = s.mem)
    (hpc : t.pc.toNat ≤ 0x10FE) (hstack : t.stack = s.stack) : t.Inv :=
  ⟨by rw [hconfig, hmem]; exact h.memory, hpc, hstack ▸ h.stack⟩

theorem State.Inv.memWrite {s t : State} {a : Nat} {bytes : List Byte} (h : s.Inv) (hwrite : s.memWrite a bytes = .ok t) :
    t.Inv := by
  obtain ⟨hle, rfl⟩ := State.memWrite_eq_ok.1 hwrite
  exact ⟨Memory.wf_writeList h.memory hle, h.pc, h.stack⟩

theorem State.Inv.setPc {s : State} (h : s.Inv) {w : Word} (hw : w.toNat ≤ 0x10FE) : (s.setPc w).Inv :=
  h.congr rfl rfl hw rfl

theorem State.Inv.setStack {s : State} (h : s.Inv) {e : Vector Word 16} (n : Fin 17)
    (he : ∀ k : Fin 16, e[k].toNat ≤ 4096) : (s.setStack e n).Inv :=
  ⟨h.memory, h.pc, he⟩

/-- A stack with one entry replaced. -/
theorem toNat_getElem_set_le {e : Vector Word 16} {w : Word} {b : Nat} (k : Fin 16) (hw : w.toNat ≤ b)
    (he : ∀ j : Fin 16, e[j].toNat ≤ b) (j : Fin 16) : (e.set k w)[j].toNat ≤ b := by
  simp only [Fin.getElem_fin, Vector.getElem_set]
  split
  · exact hw
  · exact he j

theorem toNat_zextAddr_le (nnn : Addr) : (zextAddr nnn).toNat ≤ 0x10FE := by
  have := nnn.isLt
  rw [toNat_zextAddr]
  omega

theorem toNat_zextAddr_add_zextByte_le (nnn : Addr) (b : Byte) : (zextAddr nnn + zextByte b).toNat ≤ 0x10FE := by
  have := nnn.isLt
  have := b.isLt
  rw [toNat_zextAddr_add_zextByte]
  omega

/-- The advance after a fetch that succeeded (10_state.md R24). -/
theorem State.toNat_advance_pc {s : State} (h : s.pc.toNat ≤ 4094) : s.advance.pc.toNat = s.pc.toNat + 2 := by
  rw [State.advance_pc]
  bv_omega

/-! ### The invariant along a step -/

/-- A handler keeps the invariant where pc has been advanced from a fetch that succeeded. -/
theorem Effect.keeps_inv {i : Instr} {s t : State} (h : Effect s i t) (hinv : s.Inv) (hlo : 2 ≤ s.pc.toNat)
    (hhi : s.pc.toNat ≤ 4096) : t.Inv := by
  cases h with
  | jump nnn => exact hinv.setPc (toNat_zextAddr_le nnn)
  | jumpV0 nnn b => exact hinv.setPc (toNat_zextAddr_add_zextByte_le nnn b)
  | skip c writer =>
    rw [State.skipIf_eq_setPc]
    exact hinv.setPc (by split <;> bv_omega)
  | wait x => exact hinv.setPc (by bv_omega)
  | call nnn k n =>
    exact (hinv.setStack n (toNat_getElem_set_le k hhi hinv.stack)).setPc (toNat_zextAddr_le nnn)
  | ret k n => exact (hinv.setStack n hinv.stack).setPc ((hinv.stack k).trans (by decide))
  | stored bytes length write => exact hinv.memWrite write
  | _ => exact hinv.congr (by simp) (by simp) hinv.pc (by simp)

/-- Settles O16: the fetch bounds pc by 4094, so the advanced pc is at most 4096, and every effect keeps the invariant from
there. -/
theorem stepKeepsTheInvariant : Obligations.StepKeepsTheInvariant := by
  intro s t hinv h
  obtain ⟨-, hstep⟩ | ⟨w, -, -, hstep⟩ | ⟨w, i, hfetch, -, hstep⟩ := step_cases s
  · cases hstep.symm.trans h
  · cases hstep.symm.trans h
  · obtain ⟨hin, -⟩ := State.fetch_eq_ok.1 hfetch
    have hadvance := State.toNat_advance_pc (s := s) (by omega)
    have hinv' : s.advance.Inv := hinv.setPc (hadvance.le.trans (by omega))
    exact (exec_effect (hstep.symm.trans h)).keeps_inv hinv' (by omega) (by omega)

/-! ### The invariant along the commands -/

theorem State.inv_resetWith (c : Config) : (State.resetWith c).Inv :=
  ⟨Memory.wf_nil c, by simp [State.resetWith], fun k => by simp [State.resetWith]⟩

/-- Settles O15: after reset no byte is listed, pc is 0x200 and the stack is zero. -/
theorem invariantHoldsAfterReset : Obligations.InvariantHoldsAfterReset :=
  ⟨State.inv_resetWith, State.inv_resetWith defaultConfig⟩

/-- No instruction changes the OPEN parameters (log 1). -/
theorem exec_keeps_config {i : Instr} {s t : State} (h : exec i s = .next t) : t.config = s.config := by
  obtain ⟨-, -, -, -, -, -, -, -, -, -, hconfig⟩ := specialStateIsWrittenOnlyByItsInstructions i s t h
  exact hconfig

theorem step_keeps_config {s t : State} (h : step s = .next t) : t.config = s.config := by
  obtain ⟨-, hstep⟩ | ⟨w, -, -, hstep⟩ | ⟨w, i, -, -, hstep⟩ := step_cases s
  · cases hstep.symm.trans h
  · cases hstep.symm.trans h
  · exact exec_keeps_config (s := s.advance) (hstep.symm.trans h)

/-- An error leaves the invariant and the OPEN parameters as they were (60_exceptions.md R219). -/
theorem fault_keeps_inv {s : State} {f : Fault} (hinv : s.Inv) (h : step s = .fault f) :
    f.after.Inv ∧ f.after.config = s.config := by
  obtain ⟨-, rfl⟩ | ⟨hpc, hafter⟩ := errorsArePrecise s f h
  · exact ⟨hinv, rfl⟩
  · have hadvance := State.toNat_advance_pc hpc
    rw [hafter]
    exact ⟨hinv.setPc (hadvance.le.trans (by omega)), rfl⟩

theorem stepCommand_keeps_inv {s : State} (hinv : s.Inv) :
    (stepCommand s).1.Inv ∧ (stepCommand s).1.config = s.config := by
  unfold stepCommand
  cases h : step s with
  | next t => exact ⟨stepKeepsTheInvariant s t hinv h, step_keeps_config h⟩
  | fault f => exact fault_keeps_inv hinv h
  | refused r => exact ⟨hinv, rfl⟩

theorem loadRom_keeps_inv {s : State} (hinv : s.Inv) (addr : Nat) (bytes : List Byte) :
    (loadRom addr bytes s).1.Inv ∧ (loadRom addr bytes s).1.config = s.config := by
  unfold loadRom
  cases h : s.memWrite addr bytes with
  | error e => exact ⟨hinv, rfl⟩
  | ok t =>
    have hinv' := hinv.memWrite h
    obtain ⟨hle, rfl⟩ := State.memWrite_eq_ok.1 h
    exact ⟨hinv'.setPc (by rw [BitVec.toNat_ofNat, Nat.mod_eq_of_lt (by omega)]; omega), rfl⟩

/-- Settles O17, by the commands: RESET starts anew, STEP and LOAD_ROM are treated above, the others write no part of the state
the invariant speaks of. -/
theorem everyCommandKeepsTheInvariant : Obligations.EveryCommandKeepsTheInvariant := by
  intro c s hinv
  cases c with
  | reset => exact ⟨State.inv_resetWith s.config, rfl⟩
  | loadRom addr bytes => exact loadRom_keeps_inv hinv addr bytes
  | step => exact stepCommand_keeps_inv hinv
  | _ => exact ⟨hinv.congr rfl rfl hinv.pc rfl, rfl⟩

end Sys2Proof.Machine
end

section
/-! PROOFS. The stack (40_flow.md R100, R101, R105): the push and the pop by the number of entries in use, CALL, a RET after a CALL,
many pushes and pops, and the obligations on them. -/

namespace Sys2Proof.Machine

/-! ### One push, one pop -/

theorem State.push_of_sp {s : State} {k : Fin 16} (h : s.sp.val = k.val) (w : Word) :
    s.push w = .ok (s.setStack (s.stack.set k w) k.succ) := by
  refine State.push_eq_ok.2 ⟨h ▸ k.isLt, ?_⟩
  simp only [h]
  rfl

theorem State.pop_of_sp_succ {s : State} {k : Fin 16} (h : s.sp.val = k.val + 1) :
    s.pop = .ok (s.stack[k], s.setStack s.stack k.castSucc) := by
  refine State.pop_eq_ok.2 ⟨by omega, ?_⟩
  simp only [h, Nat.add_sub_cancel]
  rfl

/-- The stack has room, or all sixteen entries are in use (10_state.md R28). -/
theorem State.sp_lt_or_full (s : State) : (∃ k : Fin 16, s.sp.val = k.val) ∨ s.sp.val = 16 := by
  by_cases h : s.sp.val < 16
  · exact .inl ⟨⟨s.sp.val, h⟩, rfl⟩
  · exact .inr (by omega)

/-- No entry is in use, or there is a last one (10_state.md R28). -/
theorem State.sp_zero_or_succ (s : State) : s.sp.val = 0 ∨ ∃ k : Fin 16, s.sp.val = k.val + 1 := by
  by_cases h : s.sp.val = 0
  · exact .inl h
  · exact .inr ⟨⟨s.sp.val - 1, by omega⟩, by simp only; omega⟩

@[simp] theorem getElem_stack_set_self (e : Vector Word 16) (k : Fin 16) (w : Word) : (e.set k w)[k] = w :=
  Vector.getElem_set_self k.isLt

theorem getElem_stack_set_ne (e : Vector Word 16) {k j : Fin 16} (w : Word) (h : j ≠ k) : (e.set k w)[j] = e[j] :=
  Vector.getElem_set_ne k.isLt j.isLt fun hkj => h (Fin.ext hkj.symm)

/-! ### CALL and RET -/

theorem decode_call (nnn : Addr) : decode (formatNNN 0x2#4 nnn) = .ok (.call nnn) := decode_encode (i := .call nnn) rfl

/-- 2nnn with room on the stack: the advanced pc is pushed and the target taken (40_flow.md R105). -/
theorem exec_call_of_sp {s : State} {k : Fin 16} (h : s.sp.val = k.val) (nnn : Addr) :
    exec (.call nnn) s = .next ((s.setStack (s.stack.set k s.pc) k.succ).setPc (zextAddr nnn)) := by
  show orRaise s (s.push s.pc) _ = _
  rw [State.push_of_sp h, orRaise_ok]

/-- Settles O22, by the two cases of the push. -/
theorem callPushesAndJumps : Obligations.CallPushesAndJumps := by
  refine ⟨decode_call, fun nnn s => ⟨fun k hsp => ⟨_, exec_call_of_sp hsp nnn, ?_⟩,
    fun hfull => exec_call_eq_fault.2 ⟨hfull, rfl⟩⟩⟩
  exact ⟨toNat_zextAddr nnn, congrArg (· + 1) hsp.symm, getElem_stack_set_self s.stack k s.pc,
    fun j hj => getElem_stack_set_ne s.stack s.pc hj, rfl⟩

/-- Settles O24: a CALL that answers next had room, so the RET finds the entry it wrote on top. -/
theorem returnResumesAfterCall : Obligations.ReturnResumesAfterCall := by
  intro nnn s t u h hstack hsp
  obtain ⟨k, hk⟩ | hfull := s.sp_lt_or_full
  · cases (exec_call_of_sp hk nnn).symm.trans h
    refine ⟨_, exec_ret_of_sp_succ (s := u) (k := k) (congrArg Fin.val hsp), ?_, Fin.ext hk.symm⟩
    rw [State.setPc_pc, hstack]
    exact getElem_stack_set_self s.stack k s.pc
  · cases (exec_call_eq_fault.2 ⟨hfull, rfl⟩).symm.trans h

/-! ### Many pushes and pops -/

/-- The two stacks agree below a stack pointer. -/
def AgreeBelow (n : Nat) (e f : Vector Word 16) : Prop := ∀ k : Fin 16, k.val < n → e[k] = f[k]

/-- Popping `n` and then one more is popping `n + 1`. -/
theorem popAll_succ_of_pop {n : Nat} {s t u : State} {ws : List Word} {w : Word} (hall : popAll n s = .ok (ws, t))
    (hpop : t.pop = .ok (w, u)) : popAll (n + 1) s = .ok (ws ++ [w], u) := by
  induction n generalizing s ws with
  | zero =>
    cases hall
    simp only [popAll, hpop, List.nil_append]
  | succ n ih =>
    rw [popAll] at hall
    split at hall
    · cases hall
    · rename_i w' s' hfirst
      split at hall
      · cases hall
      · rename_i ws' t' hrest
        cases hall
        rw [popAll, hfirst]
        simp only [ih hrest, List.cons_append]

/-- Pushes that fit, then as many pops: the first word pushed is the last one popped, and the entries in use before are kept. -/
theorem popAll_pushAll {ws : List Word} {s : State} (hfit : s.sp.val + ws.length ≤ 16) :
    ∃ t u, pushAll ws s = .ok t ∧ t.sp.val = s.sp.val + ws.length ∧ popAll ws.length t = .ok (ws.reverse, u) ∧
      u = s.setStack u.stack s.sp ∧ AgreeBelow s.sp.val u.stack s.stack := by
  induction ws generalizing s with
  | nil => exact ⟨s, s, rfl, rfl, rfl, rfl, fun _ _ => rfl⟩
  | cons w ws ih =>
    rw [List.length_cons] at hfit
    obtain ⟨k, hk⟩ : ∃ k : Fin 16, s.sp.val = k.val := ⟨⟨s.sp.val, by omega⟩, rfl⟩
    have hpush := State.push_of_sp hk w
    obtain ⟨t, u, hpushes, hsp, hpops, hu, hkept⟩ := ih (s := s.setStack (s.stack.set k w) k.succ)
      (by simp only [State.setStack_sp, Fin.val_succ]; omega)
    simp only [State.setStack_sp, State.setStack_stack, Fin.val_succ] at hsp hu hkept
    have hpop : u.pop = .ok (w, s.setStack u.stack s.sp) := by
      have htop : u.stack[k] = w := (hkept k (Nat.lt_succ_self _)).trans (getElem_stack_set_self s.stack k w)
      have hcast : k.castSucc = s.sp := Fin.ext hk.symm
      rw [State.pop_of_sp_succ (k := k) (by rw [hu]; rfl), htop, hcast, hu]
      rfl
    refine ⟨t, s.setStack u.stack s.sp, ?_, ?_, ?_, rfl, fun j hj => ?_⟩
    · simp only [pushAll, hpush, hpushes]
    · rw [hsp, List.length_cons]
      omega
    · rw [List.reverse_cons]
      exact popAll_succ_of_pop hpops hpop
    · have hne : j ≠ k := fun hjk => by subst hjk; omega
      exact (hkept j (by omega)).trans (getElem_stack_set_ne s.stack w hne)

/-- Pushes that do not fit fail at the first one that finds the stack full (D7, log 8). -/
theorem pushAll_of_overflow {ws : List Word} {s : State} (h : 16 < s.sp.val + ws.length) :
    pushAll ws s = .error .stackOverflow := by
  induction ws generalizing s with
  | nil =>
    rw [List.length_nil] at h
    omega
  | cons w ws ih =>
    rw [List.length_cons] at h
    obtain ⟨k, hk⟩ | hfull := s.sp_lt_or_full
    · rw [pushAll, State.push_of_sp hk]
      exact ih (by simp only [State.setStack_sp, Fin.val_succ]; omega)
    · rw [pushAll, State.push_eq_error.2 ⟨hfull, rfl⟩]

/-- Settles O25, by induction on the list of words. -/
theorem stackIsLastInFirstOut : Obligations.StackIsLastInFirstOut := by
  refine fun ws s => ⟨fun hfit => ?_, pushAll_of_overflow⟩
  obtain ⟨t, u, hpushes, hsp, hpops, hu, -⟩ := popAll_pushAll hfit
  exact ⟨t, u, hpushes, hsp, hpops, by rw [hu]; rfl, hu⟩

end Sys2Proof.Machine
end

section
/-! PROOFS. Fx0A, the wait for a key (46_keypad.md R172): the handler with a key pressed and with none, and the obligation on it. -/

namespace Sys2Proof.Machine

theorem exec_ldVxK_of_key {s : State} {k : Nat} (h : s.lowestKey? = some k) (x : Reg) :
    exec (.ldVxK x) s = .next (s.setV x (BitVec.ofNat 8 k)) := by
  simp only [exec, execLdVxK, h]

theorem exec_ldVxK_of_no_key {s : State} (h : s.lowestKey? = none) (x : Reg) : exec (.ldVxK x) s = .next s.rewind := by
  simp only [exec, execLdVxK, h]

/-- Running the instruction again is the advance undone (46_keypad.md R172). -/
theorem State.rewind_advance (s : State) : s.advance.rewind = s := by
  show s.setPc (s.pc + 2 - 2) = s
  rw [BitVec.add_sub_cancel, State.setPc_self]

/-- Settles O49, by the two answers of the key search. -/
theorem waitForKeyLoadsTheLeastKey : Obligations.WaitForKeyLoadsTheLeastKey := by
  refine ⟨fun x s k hdown hleast => ?_, fun x s w hfetch hdecode hnone => ?_⟩
  · have hkey : s.lowestKey? = some k.val :=
      State.lowestKey?_eq_some.2 ⟨k.isLt, hdown, fun j hj => hleast ⟨j, by omega⟩ hj⟩
    obtain ⟨hx, hothers, honly⟩ := s.setV_writes_only x (BitVec.ofNat 8 k.val)
    refine ⟨_, exec_ldVxK_of_key hkey x, ?_, hothers, honly⟩
    rw [hx, BitVec.toNat_ofNat, Nat.mod_eq_of_lt (by omega)]
  · have hkey : s.advance.lowestKey? = none := State.lowestKey?_eq_none.2 hnone
    rw [step_of_decode hfetch hdecode, exec_ldVxK_of_no_key hkey, State.rewind_advance]

end Sys2Proof.Machine
end

section
/-! PROOFS. The state no program sees: ST, redraw and the stack entries at or above sp (10_state.md R28, R37). Two states that look
alike are one state with the unseen part replaced, and a handler does to both what both show; the obligation on it. -/

namespace Sys2Proof.Machine

/-! ### Replacing the unseen state -/

/-- `s` with other values in the fields that hold unseen state. -/
def State.withUnseen (s : State) (st : Byte) (redraw : Bool) (stack : Vector Word 16) : State :=
  { s with st := st, redraw := redraw, stack := stack }

theorem SeenAlike.eq_withUnseen {s t : State} (h : SeenAlike s t) : t = s.withUnseen t.st t.redraw t.stack := by
  obtain ⟨hv, hi, hpc, hsp, -, hdt, hkeys, hfb, hrng, hmem, hshift, hconfig⟩ := h
  rw [State.withUnseen, hv, hi, hpc, hsp, hdt, hkeys, hfb, hrng, hmem, hshift, hconfig]

theorem AgreeBelow.mono {m n : Nat} {e f : Vector Word 16} (h : AgreeBelow n e f) (hmn : m ≤ n) : AgreeBelow m e f :=
  fun k hk => h k (hk.trans_le hmn)

/-- A push of one word on both stacks. -/
theorem AgreeBelow.set {k : Fin 16} {e f : Vector Word 16} (h : AgreeBelow k.val e f) (w : Word) :
    AgreeBelow (k.val + 1) (e.set k w) (f.set k w) := by
  intro j hj
  by_cases hjk : j = k
  · rw [hjk, getElem_stack_set_self, getElem_stack_set_self]
  · rw [getElem_stack_set_ne e w hjk, getElem_stack_set_ne f w hjk]
    exact h j (by omega)

/-! ### Outcomes that look alike -/

/-- Both go on to states that look alike, or both stop with one kind of error in states that look alike. -/
def OutcomesAlike (p q : Result) : Prop :=
  (∃ s t, p = .next s ∧ q = .next t ∧ SeenAlike s t) ∨
    ∃ f g, p = .fault f ∧ q = .fault g ∧ f.kind = g.kind ∧ SeenAlike f.after g.after

theorem OutcomesAlike.next {s t : State} (h : SeenAlike s t) : OutcomesAlike (.next s) (.next t) :=
  .inl ⟨s, t, rfl, rfl, h⟩

theorem OutcomesAlike.raise {s t : State} (e : ErrorKind) (h : SeenAlike s t) :
    OutcomesAlike (raise e s) (raise e t) := by
  cases e <;> exact .inr ⟨_, _, rfl, rfl, rfl, h⟩

/-- A handler that checks what both states show, then goes on with what the check found. -/
theorem OutcomesAlike.orRaise {α : Type} {s t : State} (x : Except ErrorKind α) {go go' : α → Result} (h : SeenAlike s t)
    (hgo : ∀ a, OutcomesAlike (go a) (go' a)) : OutcomesAlike (orRaise s x go) (orRaise t x go') := by
  cases x with
  | ok a => exact hgo a
  | error e => exact .raise e h

/-! ### The handlers on two states that look alike -/

section
variable {s : State} {st : Byte} {redraw : Bool} {stack : Vector Word 16}

theorem seenAlike_withUnseen (h : AgreeBelow s.sp.val s.stack stack) : SeenAlike s (s.withUnseen st redraw stack) :=
  ⟨rfl, rfl, rfl, rfl, h, rfl, rfl, rfl, rfl, rfl, rfl, rfl⟩

theorem seenAlike_skipIf (h : AgreeBelow s.sp.val s.stack stack) (c : Bool) :
    SeenAlike (s.skipIf c) ((s.withUnseen st redraw stack).skipIf c) := by
  rw [State.skipIf_eq_setPc, State.skipIf_eq_setPc]
  refine seenAlike_withUnseen (s := s.setPc _) ?_
  exact h

/-- A store checks bounds both states show and writes the same memory. -/
theorem outcomesAlike_memWrite (h : AgreeBelow s.sp.val s.stack stack) (a : Nat) (bytes : List Byte) :
    OutcomesAlike (orRaise s (s.memWrite a bytes) .next)
      (orRaise (s.withUnseen st redraw stack) ((s.withUnseen st redraw stack).memWrite a bytes) .next) := by
  unfold State.memWrite
  split
  · exact .raise .illegalAddress (seenAlike_withUnseen h)
  · refine .next (seenAlike_withUnseen (s := s.setMem _) ?_)
    exact h

/-- A push writes the first entry neither state shows, and both show it afterwards (40_flow.md R100, R105). -/
theorem outcomesAlike_call (h : AgreeBelow s.sp.val s.stack stack) (nnn : Addr) :
    OutcomesAlike (exec (.call nnn) s) (exec (.call nnn) (s.withUnseen st redraw stack)) := by
  obtain ⟨k, hk⟩ | hfull := s.sp_lt_or_full
  · rw [exec_call_of_sp hk, exec_call_of_sp (s := s.withUnseen st redraw stack) hk]
    refine .next (seenAlike_withUnseen (s := State.setPc (s.setStack _ _) _) ?_)
    exact (hk ▸ h : AgreeBelow k.val s.stack stack).set s.pc
  · rw [exec_call_eq_fault.2 ⟨hfull, rfl⟩, exec_call_eq_fault (s := s.withUnseen st redraw stack).2 ⟨hfull, rfl⟩]
    exact .raise .stackOverflow (seenAlike_withUnseen h)

/-- A pop reads an entry both states show (40_flow.md R101, R102). -/
theorem outcomesAlike_ret (h : AgreeBelow s.sp.val s.stack stack) :
    OutcomesAlike (exec .ret s) (exec .ret (s.withUnseen st redraw stack)) := by
  obtain hempty | ⟨k, hk⟩ := s.sp_zero_or_succ
  · rw [exec_ret_of_sp_zero hempty, exec_ret_of_sp_zero (s := s.withUnseen st redraw stack) hempty]
    exact .raise .stackUnderflow (seenAlike_withUnseen h)
  · have htop : s.stack[k] = stack[k] := h k (by omega)
    rw [exec_ret_of_sp_succ hk, exec_ret_of_sp_succ (s := s.withUnseen st redraw stack) hk, htop]
    refine .next (seenAlike_withUnseen (s := State.setPc (s.setStack _ _) _) ?_)
    exact h.mono (by simp only [State.setPc_sp, State.setStack_sp, Fin.val_castSucc]; omega)

theorem outcomesAlike_exec (i : Instr) (h : AgreeBelow s.sp.val s.stack stack) :
    OutcomesAlike (exec i s) (exec i (s.withUnseen st redraw stack)) := by
  have hseen : SeenAlike s (s.withUnseen st redraw stack) := seenAlike_withUnseen h
  cases i with
  | ret => exact outcomesAlike_ret h
  | call nnn => exact outcomesAlike_call h nnn
  | ldB | store => exact outcomesAlike_memWrite h _ _
  | skp x | sknp x => exact .orRaise (s.keyNamedBy x) hseen fun _ => .next (seenAlike_skipIf h _)
  | seImm | sneImm | seReg | sneReg => exact .next (seenAlike_skipIf h _)
  | drw x y n =>
    refine .orRaise (s.memRead s.i.toNat n.toNat) hseen fun _ => .next (seenAlike_withUnseen ?_)
    exact h
  | load x =>
    refine .orRaise (s.memRead s.i.toNat (x.val + 1)) hseen fun _ => .next (seenAlike_withUnseen ?_)
    exact h
  | ldVxK x =>
    cases hkey : s.lowestKey? with
    | none =>
      rw [exec_ldVxK_of_no_key hkey, exec_ldVxK_of_no_key (s := s.withUnseen st redraw stack) hkey]
      refine .next (seenAlike_withUnseen (s := s.rewind) ?_)
      exact h
    | some k =>
      rw [exec_ldVxK_of_key hkey, exec_ldVxK_of_key (s := s.withUnseen st redraw stack) hkey]
      refine .next (seenAlike_withUnseen (s := s.setV x _) ?_)
      exact h
  | _ =>
    refine .next (seenAlike_withUnseen ?_)
    exact h

end

/-! ### The step -/

theorem outcomesAlike_step {s t : State} (h : SeenAlike s t) : OutcomesAlike (step s) (step t) := by
  have hadvance : SeenAlike s.advance t.advance :=
    ⟨h.v, h.i, congrArg (· + 2) h.pc, h.sp, h.stack, h.dt, h.keys, h.fb, h.rng, h.mem, h.shiftSrc, h.config⟩
  have hfetch : s.fetch = t.fetch := by rw [h.eq_withUnseen]; rfl
  simp only [step, ← hfetch]
  cases s.fetch with
  | error e => exact .raise e h
  | ok w =>
    simp only
    cases decode w with
    | error e => exact .raise (.illegalInstruction w) hadvance
    | ok i =>
      simp only
      rw [hadvance.eq_withUnseen]
      exact outcomesAlike_exec i hadvance.stack

/-- Settles O59, from the fetch, which reads memory and pc alone, and the handlers on states that look alike. -/
theorem unseenStateNeverMatters : Obligations.UnseenStateNeverMatters := fun _ _ => outcomesAlike_step

end Sys2Proof.Machine
end

section
/-! PROOFS. The no-op 0nnn (40_flow.md R103), the jump to its own address (70_reset_and_hazards.md R257) and the skips on registers
(41_skip.md R112, R113): words and handlers each as one equation, and the obligations on them. -/

namespace Sys2Proof.Machine

/-! ### The no-op -/

theorem decode_sys {nnn : Addr} (hcls : nnn ≠ 0x0E0#12) (hret : nnn ≠ 0x0EE#12) :
    decode (formatNNN 0x0#4 nnn) = .ok (.sys nnn) :=
  decode_encode (i := .sys nnn) (Instr.wellFormed_sys.2 ⟨hcls, hret⟩)

theorem exec_sys (nnn : Addr) (s : State) : exec (.sys nnn) s = .next s := rfl

/-- Settles O19, from the word and the handler: after the advance of the cycle nothing is done. -/
theorem sysIsANoOp : Obligations.SysIsANoOp := by
  refine ⟨fun nnn hcls hret => decode_sys hcls hret, exec_sys, fun nnn s hfetch hcls hret => ?_⟩
  rw [step_of_decode hfetch (decode_sys hcls hret), exec_sys]
  rfl

/-! ### The end of a run -/

/-- The word of a jump to an address a fetch can reach. -/
theorem formatNNN_jp_of_pc {pc : Word} (h : pc.toNat < 4096) :
    formatNNN 0x1#4 (pc.setWidth 12) = 0x1000#16 ||| pc := by
  refine BitVec.eq_of_toNat_eq ?_
  rw [formatNNN, BitVec.toNat_append, BitVec.toNat_or, BitVec.toNat_setWidth, Nat.mod_eq_of_lt h]
  rfl

/-- A machine about to jump to its own address stays as it is (70_reset_and_hazards.md R257). -/
theorem State.endedNormally.step {s : State} (h : s.endedNormally) : step s = .next s := by
  obtain ⟨hin, -⟩ := State.fetch_eq_ok.1 h
  refine step_of_jp_to_self (nnn := s.pc.setWidth 12) ?_ ?_
  · rw [formatNNN_jp_of_pc (by omega)]
    exact h
  · rw [BitVec.toNat_setWidth, Nat.mod_eq_of_lt (by omega)]

theorem safeFor_of_step_self {s : State} (h : step s = .next s) (n : Nat) : safeFor n s := by
  induction n with
  | zero => trivial
  | succ n ih => exact ⟨s, h, ih⟩

/-- Settles O55: the fetched word is the jump to the 12 bits of pc, and pc of a fetch that succeeds has no more. -/
theorem jumpToSelfChangesNothing : Obligations.JumpToSelfChangesNothing :=
  fun _ h => ⟨h.step, safeFor_of_step_self h.step⟩

/-! ### Skips on registers -/

theorem decode_seReg (x y : Reg) : decode (formatXYN 0x5#4 x y 0x0#4) = .ok (.seReg x y) :=
  decode_encode (i := .seReg x y) rfl

theorem decode_sneReg (x y : Reg) : decode (formatXYN 0x9#4 x y 0x0#4) = .ok (.sneReg x y) :=
  decode_encode (i := .sneReg x y) rfl

/-- With a last nibble other than 0 neither major opcode has a pattern (30_encoding.md R78; D25, log 15). -/
theorem decode_formatXYN_ne_ok {a n : BitVec 4} {i : Instr} (x y : Reg) (hn : n ≠ 0x0#4) (ha : a = 0x5#4 ∨ a = 0x9#4) :
    decode (formatXYN a x y n) ≠ .ok i := by
  obtain rfl | rfl := ha <;> simp [decode, decode?, hn]

/-- 5xy0 writes pc alone (41_skip.md R112). -/
theorem exec_seReg (x y : Reg) (s : State) :
    exec (.seReg x y) s = .next (s.setPc (if s.getV x = s.getV y then s.pc + 2 else s.pc)) :=
  exec_seImm x (s.getV y) s

/-- 9xy0 writes pc alone, with the branches of 5xy0 exchanged (41_skip.md R113). -/
theorem exec_sneReg (x y : Reg) (s : State) :
    exec (.sneReg x y) s = .next (s.setPc (if s.getV x = s.getV y then s.pc else s.pc + 2)) :=
  exec_sneImm x (s.getV y) s

/-- Settles O27, from the words of format XY and the two handlers' equations: each is the skip on an immediate, the immediate
being the value of Vy. -/
theorem skipsOnRegisters : Obligations.SkipsOnRegisters :=
  ⟨fun x y => ⟨decode_seReg x y, decode_sneReg x y⟩, fun x y _ _ _ hn ha => decode_formatXYN_ne_ok x y hn ha,
    fun x y s => ⟨exec_seReg x y s, exec_sneReg x y s⟩⟩

end Sys2Proof.Machine
end

section
/-! PROOFS. Logic, add, subtract and shifts (42_alu.md R123 to R131; 10_state.md R26): the two orders of the result and the flag,
each with its frame, the numbers they write, and the obligations on them. -/

namespace Sys2Proof.Machine

/-! ### Logic -/

/-- Settles O30: each handler is one register write of a bitwise operation, VF like any other register (D14, log 12). -/
theorem logicIsBitwiseAndSetsNoFlag : Obligations.LogicIsBitwiseAndSetsNoFlag := by
  intro x y s
  refine ⟨⟨_, rfl, fun k => ?_, (s.setV_writes_only x _).2⟩, ⟨_, rfl, fun k => ?_, (s.setV_writes_only x _).2⟩,
    ⟨_, rfl, fun k => ?_, (s.setV_writes_only x _).2⟩⟩
  · rw [State.getV_setV_self, BitVec.getLsbD_or]
  · rw [State.getV_setV_self, BitVec.getLsbD_and]
  · rw [State.getV_setV_self, BitVec.getLsbD_xor]

/-! ### Result and flag -/

/-- Result, then flag: VF holds the flag, whatever the destination (10_state.md R26; D8, log 7). -/
theorem State.resultThenFlag_writes (s : State) (x : Reg) (b : Byte) (flag : Bool) :
    (x ≠ VF → (s.resultThenFlag x b flag).getV x = b) ∧ (s.resultThenFlag x b flag).getV VF = flagByte flag ∧
      (∀ r, r ≠ x → r ≠ VF → (s.resultThenFlag x b flag).getV r = s.getV r) ∧ s.onlyV (s.resultThenFlag x b flag) := by
  refine ⟨fun hx => ?_, (s.setV x b).getV_setFlag_VF flag, fun r hrx hrF => ?_, rfl⟩
  · exact ((s.setV x b).getV_setFlag_ne flag hx).trans (s.getV_setV_self x b)
  · exact ((s.setV x b).getV_setFlag_ne flag hrF).trans (s.getV_setV_ne b hrx)

/-- Flag, then result: the destination holds the result, VF too (10_state.md R26; D8, log 7). -/
theorem State.flagThenResult_writes (s : State) (x : Reg) (b : Byte) (flag : Bool) :
    (s.flagThenResult x b flag).getV x = b ∧ (x ≠ VF → (s.flagThenResult x b flag).getV VF = flagByte flag) ∧
      (∀ r, r ≠ x → r ≠ VF → (s.flagThenResult x b flag).getV r = s.getV r) ∧ s.onlyV (s.flagThenResult x b flag) := by
  refine ⟨(s.setFlag flag).getV_setV_self x b, fun hx => ?_, fun r hrx hrF => ?_, rfl⟩
  · exact ((s.setFlag flag).getV_setV_ne b hx.symm).trans (s.getV_setFlag_VF flag)
  · exact ((s.setFlag flag).getV_setV_ne b hrx).trans (s.getV_setFlag_ne flag hrF)

/-! ### The numbers -/

theorem toNat_flagByte_decide (p : Prop) [Decidable p] : (flagByte (decide p)).toNat = if p then 1 else 0 := by
  by_cases h : p <;> simp [flagByte, h]

theorem toNat_byte_sub (b c : Byte) : (b - c).toNat = (b.toNat + 256 - c.toNat) % 256 := by
  have := c.isLt
  rw [BitVec.toNat_sub]
  congr 1
  omega

/-- The bit a shift right drops is the remainder by 2 (42_alu.md R129). -/
theorem toNat_flagByte_lowBitOf (b : Byte) : (flagByte (lowBitOf b)).toNat = b.toNat % 2 := by
  rw [lowBitOf, BitVec.getLsbD, Nat.testBit_zero, toNat_flagByte_decide]
  split <;> omega

/-- The bit a shift left drops is the quotient by 128 (42_alu.md R131). -/
theorem toNat_flagByte_highBitOf (b : Byte) : (flagByte (highBitOf b)).toNat = b.toNat / 128 := by
  have := b.isLt
  rw [highBitOf, BitVec.getLsbD, Nat.testBit_eq_decide_div_mod_eq, toNat_flagByte_decide]
  split <;> omega

theorem toNat_byte_shiftRight_one (b : Byte) : (b >>> 1).toNat = b.toNat / 2 := by
  rw [BitVec.toNat_ushiftRight, Nat.shiftRight_eq_div_pow]

theorem toNat_byte_shiftLeft_one (b : Byte) : (b <<< 1).toNat = 2 * b.toNat % 256 := by
  rw [BitVec.toNat_shiftLeft, Nat.shiftLeft_eq, Nat.mul_comm]

/-! ### The obligations -/

/-- Settles O31: the three handlers write the result, then the flag. -/
theorem addAndSubtractSetResultThenFlag : Obligations.AddAndSubtractSetResultThenFlag := by
  intro x y s
  refine ⟨⟨_, rfl, ?_⟩, ⟨_, rfl, ?_⟩, ⟨_, rfl, ?_⟩⟩
  · obtain ⟨hx, hF, hframe⟩ := s.resultThenFlag_writes x (s.getV x + s.getV y) (carryOf (s.getV x) (s.getV y))
    exact ⟨fun hne => by rw [hx hne, BitVec.toNat_add], by rw [hF, carryOf, toNat_flagByte_decide], hframe⟩
  · obtain ⟨hx, hF, hframe⟩ := s.resultThenFlag_writes x (s.getV x - s.getV y) (borrowOf (s.getV x) (s.getV y))
    exact ⟨fun hne => by rw [hx hne, toNat_byte_sub], by rw [hF, borrowOf, toNat_flagByte_decide], hframe⟩
  · obtain ⟨hx, hF, hframe⟩ := s.resultThenFlag_writes x (s.getV y - s.getV x) (borrowOf (s.getV y) (s.getV x))
    exact ⟨fun hne => by rw [hx hne, toNat_byte_sub], by rw [hF, borrowOf, toNat_flagByte_decide], hframe⟩

/-- The source by the toggle (42_alu.md R130; D20, log 18). -/
theorem State.shiftSource_eq {s : State} {x y : Reg} {src : Byte} (hvy : s.shiftSrc = .vy → src = s.getV y)
    (hvx : s.shiftSrc = .vx → src = s.getV x) : s.shiftSource x y = src := by
  unfold State.shiftSource
  cases h : s.shiftSrc with
  | vy => exact (hvy h).symm
  | vx => exact (hvx h).symm

/-- Settles O32: the two handlers write the flag, then the result, both of the source the toggle names. -/
theorem shiftsUseTheToggledSource : Obligations.ShiftsUseTheToggledSource := by
  intro x y s src hvy hvx
  obtain rfl := State.shiftSource_eq hvy hvx
  refine ⟨⟨_, rfl, ?_⟩, ⟨_, rfl, ?_⟩⟩
  · obtain ⟨hx, hF, hframe⟩ :=
      s.flagThenResult_writes x (s.shiftSource x y >>> 1) (lowBitOf (s.shiftSource x y))
    exact ⟨by rw [hx, toNat_byte_shiftRight_one], fun hne => by rw [hF hne, toNat_flagByte_lowBitOf], hframe⟩
  · obtain ⟨hx, hF, hframe⟩ :=
      s.flagThenResult_writes x (s.shiftSource x y <<< 1) (highBitOf (s.shiftSource x y))
    exact ⟨by rw [hx, toNat_byte_shiftLeft_one], fun hne => by rw [hF hne, toNat_flagByte_highBitOf], hframe⟩

end Sys2Proof.Machine
end

section
/-! PROOFS. The index register and memory transfer (43_index_memory.md R140 to R145; 20_memory.md R51, R65): words and handlers each
as one equation, the bounds of an access, the bytes a store writes and a load reads, and the obligations on them. -/

namespace Sys2Proof.Machine

/-! ### The index register -/

theorem decode_ldI (nnn : Addr) : decode (formatNNN 0xA#4 nnn) = .ok (.ldI nnn) := decode_encode (i := .ldI nnn) rfl

theorem decode_addI (x : Reg) : decode (formatXNN 0xF#4 x 0x1E#8) = .ok (.addI x) := decode_encode (i := .addI x) rfl

theorem exec_ldI (nnn : Addr) (s : State) : exec (.ldI nnn) s = .next (s.setI (zextAddr nnn)) := rfl

theorem exec_addI (x : Reg) (s : State) : exec (.addI x) s = .next (s.setI (s.i + zextByte (s.getV x))) := rfl

theorem exec_ldF (x : Reg) (s : State) : exec (.ldF x) s = .next (s.setI (s.fontAddress (s.getV x))) := rfl

/-- The font address is far below 65536, so 16 bits hold it (43_index_memory.md R142). -/
theorem State.toNat_fontAddress (s : State) (b : Byte) :
    (s.fontAddress b).toNat = s.config.fontBase.val + b.toNat := by
  have hbase := s.config.fontBase.isLt
  have hb := b.isLt
  rw [State.fontAddress, fontStride, Nat.one_mul, BitVec.toNat_ofNat, Nat.mod_eq_of_lt (by omega)]

/-- Settles O33, from the words and the two handlers' equations, each one write of `I`. -/
theorem indexLoadAndAdd : Obligations.IndexLoadAndAdd := by
  refine ⟨decode_ldI, decode_addI, fun nnn s => ⟨_, exec_ldI nnn s, toNat_zextAddr nnn, rfl⟩,
    fun x s => ⟨_, exec_addI x s, ?_, rfl⟩⟩
  rw [State.setI_i, BitVec.toNat_add, toNat_zextByte]

/-- Settles O34, from the handler's equation. -/
theorem fontAddressIsUnscaled : Obligations.FontAddressIsUnscaled :=
  fun x s => ⟨_, exec_ldF x s, s.toNat_fontAddress (s.getV x), rfl⟩

/-! ### The bounds of an access -/

theorem State.memRead_of_bounds {a n : Nat} (s : State) (h : a + n ≤ 4096) :
    s.memRead a n = .ok (Memory.readList s.config s.mem a n) :=
  State.memRead_eq_ok.2 ⟨h, rfl⟩

theorem State.memWrite_of_bounds {a : Nat} {bytes : List Byte} (s : State) (h : a + bytes.length ≤ 4096) :
    s.memWrite a bytes = .ok (s.setMem (Memory.writeList s.config s.mem a bytes)) :=
  State.memWrite_eq_ok.2 ⟨h, rfl⟩

/-- Settles O40, by the two sides of the bound. -/
theorem accessIsLegalExactlyInBounds : Obligations.AccessIsLegalExactlyInBounds := by
  rintro s a n bytes rfl
  refine ⟨fun hin => ⟨?_, ?_⟩, fun hout => ⟨State.memRead_eq_error.2 ⟨hout, rfl⟩, State.memWrite_eq_error.2 ⟨hout, rfl⟩⟩⟩
  · exact ⟨_, s.memRead_of_bounds hin, Memory.length_readList ..⟩
  · exact ⟨_, s.memWrite_of_bounds hin⟩

/-! ### Stores -/

/-- A handler that stores some bytes and does nothing else: what a read finds afterwards, and the frame. -/
theorem orRaise_memWrite_next {s : State} {a : Nat} {bytes : List Byte} (hm : Memory.wf s.config s.mem = true)
    (hin : a + bytes.length ≤ 4096) :
    ∃ t, orRaise s (s.memWrite a bytes) .next = .next t ∧ (∀ k, k < bytes.length → t.readByte (a + k) = bytes.getD k 0) ∧
      s.memOutside t a bytes.length ∧ s.onlyMem t := by
  have hwrite := s.memWrite_of_bounds hin
  exact ⟨_, orRaise_eq_next.2 ⟨_, hwrite, rfl⟩, fun k hk => State.readByte_memWrite_add hm hwrite hk,
    State.memOutside_of_memWrite hm hwrite, State.onlyMem_of_memWrite hwrite⟩

/-- The three digits of a byte, as numbers (43_index_memory.md R143; D15, log 11). -/
theorem toNat_decimalDigits (b : Byte) :
    ((decimalDigits b).getD 0 0).toNat = b.toNat / 100 ∧ ((decimalDigits b).getD 1 0).toNat = b.toNat % 100 / 10 ∧
      ((decimalDigits b).getD 2 0).toNat = b.toNat % 10 := by
  have := b.isLt
  simp only [decimalDigits, List.getD_cons_zero, List.getD_cons_succ, BitVec.toNat_ofNat]
  omega

/-- Settles O35: the handler is one store of the three digits. -/
theorem decimalDigitsAreStored : Obligations.DecimalDigitsAreStored := by
  refine fun x s hm => ⟨fun hin => ?_, fun hout => exec_ldB_eq_fault.2 ⟨hout, rfl⟩⟩
  obtain ⟨t, hexec, hread, houtside, honly⟩ := orRaise_memWrite_next (bytes := decimalDigits (s.getV x)) hm hin
  obtain ⟨h0, h1, h2⟩ := toNat_decimalDigits (s.getV x)
  have hb := (s.getV x).isLt
  rw [← hread 0 (by decide : 0 < 3), Nat.add_zero] at h0
  rw [← hread 1 (by decide : 1 < 3)] at h1
  rw [← hread 2 (by decide : 2 < 3)] at h2
  exact ⟨t, hexec, by omega, by omega, by omega, by omega, houtside, honly⟩

/-- Fx55 in bounds stores V0 to Vx and does nothing else (43_index_memory.md R144). -/
theorem exec_store_of_bounds {x : Reg} {s : State} (hm : Memory.wf s.config s.mem = true)
    (hin : s.i.toNat + x.val + 1 ≤ 4096) :
    ∃ t, exec (.store x) s = .next t ∧ (∀ r : Reg, r.val ≤ x.val → t.readByte (s.i.toNat + r.val) = s.getV r) ∧
      s.memOutside t s.i.toNat (x.val + 1) ∧ s.onlyMem t := by
  have hlen := s.length_regsUpTo x
  obtain ⟨t, hexec, hread, houtside, honly⟩ := orRaise_memWrite_next (a := s.i.toNat) (bytes := s.regsUpTo x) hm (by omega)
  refine ⟨t, hexec, fun r hr => ?_, hlen ▸ houtside, honly⟩
  rw [hread r.val (by omega), State.getD_regsUpTo s x r hr]

/-- Settles O36: the handler is one store of the registers up to Vx. -/
theorem storeWritesV0ToVx : Obligations.StoreWritesV0ToVx :=
  fun _ _ hm => ⟨exec_store_of_bounds hm, fun hout => exec_store_eq_fault.2 ⟨hout, rfl⟩⟩

/-! ### Loads -/

/-- Fx65 in bounds loads V0 to Vx and does nothing else (43_index_memory.md R145). -/
theorem exec_load_of_bounds {x : Reg} {s : State} (hin : s.i.toNat + x.val + 1 ≤ 4096) :
    ∃ t, exec (.load x) s = .next t ∧ (∀ r : Reg, r.val ≤ x.val → t.getV r = s.readByte (s.i.toNat + r.val)) ∧
      (∀ r : Reg, x.val < r.val → t.getV r = s.getV r) ∧ s.onlyV t := by
  have hread := s.memRead_of_bounds (n := x.val + 1) hin
  have hlen := Memory.length_readList s.config s.mem s.i.toNat (x.val + 1)
  refine ⟨_, orRaise_eq_next.2 ⟨_, hread, rfl⟩, fun r hr => ?_, fun r => getV_setRegs_writeRegs_of_lt s hlen, rfl⟩
  show (writeRegs s.v 0 _)[r.val] = _
  rw [writeRegs_getElem, if_pos (by omega), Nat.sub_zero, Memory.getD_readList _ _ _ _ _ (by omega)]
  rfl

/-- Settles O37: the handler is one read of the bytes at `I` and one write of the registers up to Vx. -/
theorem loadReadsV0ToVx : Obligations.LoadReadsV0ToVx :=
  fun _ _ => ⟨exec_load_of_bounds, fun hout => exec_load_eq_fault.2 ⟨hout, rfl⟩⟩

/-! ### A store seen by a load and by a fetch -/

theorem State.onlyMem.i_eq {s t : State} (h : s.onlyMem t) : t.i = s.i := by rw [h]

theorem State.onlyMem.pc_eq {s t : State} (h : s.onlyMem t) : t.pc = s.pc := by rw [h]

/-- A store that answers next was in bounds (20_memory.md R54). -/
theorem bounds_of_exec_store {x : Reg} {s t : State} (h : exec (.store x) s = .next t) : s.i.toNat + x.val + 1 ≤ 4096 := by
  by_contra hout
  cases (exec_store_eq_fault.2 ⟨Nat.lt_of_not_le hout, rfl⟩).symm.trans h

/-- What a store that answers next has done. -/
theorem readByte_of_exec_store {x : Reg} {s t : State} (hm : Memory.wf s.config s.mem = true)
    (h : exec (.store x) s = .next t) :
    (∀ r : Reg, r.val ≤ x.val → t.readByte (s.i.toNat + r.val) = s.getV r) ∧ s.onlyMem t := by
  obtain ⟨t', hexec, hread, -, honly⟩ := exec_store_of_bounds hm (bounds_of_exec_store h)
  cases hexec.symm.trans h
  exact ⟨hread, honly⟩

/-- Settles O38: the load reads the addresses the store wrote. -/
theorem loadRestoresWhatStoreSaved : Obligations.LoadRestoresWhatStoreSaved := by
  intro x s t u hm h hmem hconfig hi
  obtain ⟨hstored, honly⟩ := readByte_of_exec_store hm h
  have hi' : u.i = s.i := hi.trans honly.i_eq
  obtain ⟨w, hload, hread, -, -⟩ := exec_load_of_bounds (s := u) (hi' ▸ bounds_of_exec_store h)
  refine ⟨w, hload, fun r hr => ?_⟩
  rw [hread r hr, hi', State.readByte_congr hconfig hmem, hstored r hr]

/-- Settles O39: the fetch reads two of the addresses the store wrote. -/
theorem storeIsSeenByTheNextFetch : Obligations.StoreIsSeenByTheNextFetch := by
  intro x r0 r1 s t hm h hnext hr1 hpc
  obtain ⟨hstored, honly⟩ := readByte_of_exec_store hm h
  have hin := bounds_of_exec_store h
  have hpc' : t.pc.toNat = s.i.toNat + r0.val := hpc ▸ congrArg BitVec.toNat honly.pc_eq
  refine State.fetch_eq_ok.2 ⟨by omega, ?_⟩
  rw [hpc', hstored r0 (by omega), Nat.add_assoc, ← hnext, hstored r1 hr1]
  rfl

end Sys2Proof.Machine
end

section
/-! PROOFS. The generator (44_random.md R150, R152): its transform in numbers, each of its three steps undone bit by bit, and the
obligations on it. -/

namespace Sys2Proof.Machine

/-! ### In numbers -/

/-- Settles O41: a left shift of the word is a product modulo 2^32, a right shift a quotient. -/
theorem generatorIsXorshift : Obligations.GeneratorIsXorshift := by
  intro r
  simp only [xorshift, BitVec.toNat_xor, BitVec.toNat_shiftLeft, BitVec.toNat_ushiftRight, Nat.shiftLeft_eq,
    Nat.shiftRight_eq_div_pow]

/-! ### Each step is injective -/

/-- XORing in the word shifted left keeps the lowest bits, and each bit above gives back the bit of the word from the bits below
it. -/
theorem xor_shiftLeft_injective {w k : Nat} (hk : 0 < k) :
    Function.Injective fun x : BitVec w => x ^^^ (x <<< k) := by
  intro x y h
  refine BitVec.eq_of_getLsbD_eq fun j hj => ?_
  induction j using Nat.strong_induction_on with
  | _ j ih =>
    have hbit := congrArg (·.getLsbD j) h
    simp only [BitVec.getLsbD_xor, BitVec.getLsbD_shiftLeft, hj, decide_true, Bool.true_and] at hbit
    by_cases hlow : j < k
    · simpa [hlow] using hbit
    · simpa [hlow, ih (j - k) (by omega) (by omega)] using hbit

/-- XORing in the word shifted right keeps the highest bits, and each bit below gives back the bit of the word from the bits above
it. -/
theorem xor_shiftRight_injective {w k : Nat} (hk : 0 < k) :
    Function.Injective fun x : BitVec w => x ^^^ (x >>> k) := by
  intro x y h
  have hfrom (d : Nat) : ∀ j, w ≤ j + d → x.getLsbD j = y.getLsbD j := by
    induction d with
    | zero => exact fun j hj => by rw [BitVec.getLsbD_of_ge x j hj, BitVec.getLsbD_of_ge y j hj]
    | succ d ih =>
      intro j hj
      have hbit := congrArg (·.getLsbD j) h
      simpa [ih (k + j) (by omega)] using hbit
  exact BitVec.eq_of_getLsbD_eq fun j _ => hfrom w j (by omega)

/-- The transform is the three steps one after the other (44_random.md R150). -/
theorem xorshift_injective : Function.Injective xorshift :=
  (xor_shiftLeft_injective (k := 5) (by decide)).comp
    ((xor_shiftRight_injective (k := 17) (by decide)).comp (xor_shiftLeft_injective (k := 13) (by decide)))

/-- Settles O43: the transform is injective, and 0 is its value at 0. -/
theorem generatorPermutesItsStates : Obligations.GeneratorPermutesItsStates :=
  ⟨xorshift_injective, fun _ => ⟨fun h => xorshift_injective (h.trans xorshift_zero.symm), fun h => h ▸ xorshift_zero⟩⟩

end Sys2Proof.Machine
end

section
/-! PROOFS. The host commands RESET, TICK, LOAD_ROM, LOAD_FB and SET_SHIFT_SRC (49_host_interface.md R191, R192, R194, R200, R201),
each as one equation, and the obligations on them. -/

namespace Sys2Proof.Machine

/-! ### LOAD_FB and SET_SHIFT_SRC -/

theorem command_loadFb (bytes : Vector Byte 256) (s : State) :
    command (.loadFb bytes) s = ({ s with fb := bytes }, .done) := rfl

theorem command_setShiftSrc (v : ShiftSrc) (s : State) :
    command (.setShiftSrc v) s = ({ s with shiftSrc := v }, .done) := rfl

/-- Settles O53, from the equations of the two commands. -/
theorem loadFbAndSetShiftSrc : Obligations.LoadFbAndSetShiftSrc :=
  fun s => ⟨(command_loadFb · s), (command_setShiftSrc · s)⟩

/-! ### RESET -/

theorem length_font : font.length = 80 := rfl

/-- The reset content of memory: the font at FONT_BASE, 0 elsewhere (10_state.md R33). -/
theorem Memory.background_eq (c : Config) (a : Nat) :
    Memory.background c a =
      if c.fontBase.val ≤ a ∧ a < c.fontBase.val + 80 then font.getD (a - c.fontBase.val) 0 else 0 := by
  unfold Memory.background
  by_cases hfrom : c.fontBase.val ≤ a
  · by_cases hto : a < c.fontBase.val + 80
    · rw [if_pos hfrom, if_pos ⟨hfrom, hto⟩]
    · rw [if_pos hfrom, if_neg fun h => hto h.2, List.getD_eq_default _ _ (by rw [length_font]; omega)]
  · rw [if_neg hfrom, if_neg fun h => hfrom h.1]

theorem command_reset (s : State) : command .reset s = (State.resetWith s.config, .done) := rfl

/-- Settles O18: RESET builds the state of the summary from the OPEN parameters, with no byte of memory listed. -/
theorem resetLeavesTheStateOfTheSummary : Obligations.ResetLeavesTheStateOfTheSummary := by
  intro s
  refine ⟨_, command_reset s, rfl, fun r => ?_, rfl, rfl, rfl, fun k => ?_, rfl, rfl, fun k => ?_, fun k => ?_, rfl, rfl,
    rfl, rfl, fun a _ => Memory.background_eq s.config a⟩
  all_goals exact Vector.getElem_replicate (Fin.isLt _)

/-! ### TICK -/

theorem toNat_countDown (b : Byte) : (countDown b).toNat = b.toNat - 1 := by
  unfold countDown
  split
  · next h => rw [h]; rfl
  · next h => bv_omega

theorem command_tick (s : State) : command .tick s = ({ s with dt := countDown s.dt, st := countDown s.st }, .done) := rfl

/-- Settles O51, by induction on the number of TICKs. -/
theorem ticksCountBothTimersDownToZero : Obligations.TicksCountBothTimersDownToZero := by
  intro n s
  refine ⟨_, rfl, ?_⟩
  induction n generalizing s with
  | zero => exact ⟨rfl, rfl, rfl⟩
  | succ n ih =>
    obtain ⟨hdt, hst, hframe⟩ := ih (command .tick s).1
    rw [List.replicate_succ, commands]
    simp only [command_tick, toNat_countDown] at hdt hst hframe ⊢
    exact ⟨by omega, by omega, hframe⟩

/-! ### LOAD_ROM -/

theorem command_loadRom_of_fits {addr : Nat} {bytes : List Byte} {s t : State} (h : s.memWrite addr bytes = .ok t) :
    command (.loadRom addr bytes) s = (t.setPc (BitVec.ofNat 16 addr), .ok) := by
  show loadRom addr bytes s = _
  rw [loadRom, h]

theorem command_loadRom_of_too_long {addr : Nat} {bytes : List Byte} {s : State} (h : 4096 < addr + bytes.length) :
    command (.loadRom addr bytes) s = (s, .err .illegalAddress) := by
  show loadRom addr bytes s = _
  rw [loadRom, State.memWrite_eq_error.2 ⟨h, rfl⟩]

/-- Settles O54, by the two answers of the store. -/
theorem loadRomCopiesAndSetsPc : Obligations.LoadRomCopiesAndSetsPc := by
  refine fun addr bytes s hm => ⟨fun hfits => ?_, command_loadRom_of_too_long⟩
  have hwrite := s.memWrite_of_bounds hfits
  have hcopied k (hk : k < bytes.length) := State.readByte_memWrite_add hm hwrite hk
  have houtside := State.memOutside_of_memWrite hm hwrite
  refine ⟨_, command_loadRom_of_fits hwrite, ?_, hcopied, houtside, rfl⟩
  rw [State.setPc_pc, BitVec.toNat_ofNat, Nat.mod_eq_of_lt (by omega)]

end Sys2Proof.Machine
end

section
/-! PROOFS. The display (45_display.md R160 to R163, R166, R167): a second blit, the handler of Dxyn, the byte-wise blit, and the
obligations on them. -/

namespace Sys2Proof.Machine

/-! ### A blit onto an empty buffer, and a second blit -/

theorem pixel_replicate_zero {px py : Nat} (hpx : px < 64) (hpy : py < 32) :
    pixel (Vector.replicate 256 0) px py = false := by
  rw [pixel, fbByte_eq_getElem _ _ (by omega), Vector.getElem_replicate]
  exact BitVec.getLsbD_zero

/-- A sprite collides with its own blit exactly where it covers a pixel that was unlit before (log 23). -/
theorem hit_blit_blit (x y : Byte) (rows : List Byte) (fb : Vector Byte 256) :
    (blit x y rows (blit x y rows fb).fb).hit = true ↔
      ∃ px py, px < 64 ∧ py < 32 ∧ spriteLit (x.toNat % 64) y.toNat rows px py = true ∧ pixel fb px py = false := by
  rw [hit_blit]
  refine exists_congr fun px => exists_congr fun py =>
    and_congr_right fun hpx => and_congr_right fun hpy => and_congr_right fun hlit => ?_
  rw [pixel_blit x y rows fb px py hpx hpy, hlit, Bool.xor_true, Bool.not_eq_true']

theorem blit_blit_fb (x y : Byte) (rows : List Byte) (fb : Vector Byte 256) :
    (blit x y rows (blit x y rows fb).fb).fb = fb := by
  refine fb_ext_of_pixel fun px py hpx hpy => ?_
  rw [pixel_blit _ _ _ _ _ _ hpx hpy, pixel_blit _ _ _ _ _ _ hpx hpy, Bool.xor_assoc, Bool.xor_self, Bool.xor_false]

theorem blit_empty_hit (x y : Byte) (rows : List Byte) : (blit x y rows (Vector.replicate 256 0)).hit = false := by
  rw [← Bool.not_eq_true, hit_blit]
  rintro ⟨px, py, hpx, hpy, -, hlit⟩
  rw [pixel_replicate_zero hpx hpy] at hlit
  cases hlit

/-- Settles O47: each pixel under the sprite flips, so a second blit flips it back. -/
theorem blitTwiceRestoresTheBuffer : Obligations.BlitTwiceRestoresTheBuffer := by
  refine fun x y rows fb => ⟨blit_empty_hit x y rows, blit_blit_fb x y rows fb, hit_blit_blit x y rows fb, ?_⟩
  rw [hit_blit_blit]
  refine exists_congr fun px => exists_congr fun py =>
    and_congr_right fun hpx => and_congr_right fun hpy => and_iff_left ?_
  exact pixel_replicate_zero hpx hpy

/-! ### Dxyn -/

/-- The sprite bytes Dxyn reads (45_display.md R166). -/
def State.spriteRows (s : State) (n : Nibble) : List Byte := Memory.readList s.config s.mem s.i.toNat n.toNat

/-- The sprite Dxyn draws covers the pixels under the 1 bits of the bytes at `I` (45_display.md R163, R166). -/
theorem State.spriteLit_spriteRows (s : State) (x y : Reg) (n : Nibble) (px py : Nat) :
    spriteLit ((s.getV x).toNat % 64) (s.getV y).toNat (s.spriteRows n) px py = s.spriteCovers x y n px py := by
  simp only [spriteLit, State.spriteCovers, State.spriteRows, Memory.length_readList]
  by_cases hrow : (s.getV y).toNat ≤ py ∧ py < (s.getV y).toNat + n.toNat
  · rw [Memory.getD_readList _ _ _ _ _ (by omega)]
    rfl
  · have hout (q : Prop) (hq : q → (s.getV y).toNat ≤ py ∧ py < (s.getV y).toNat + n.toNat) : ¬q := mt hq hrow
    rw [decide_eq_false (hout _ fun h => h.2.2), Bool.false_and, Bool.false_and]

/-- Dxyn in bounds is one blit (45_display.md R166). -/
theorem exec_drw_of_bounds {x y : Reg} {n : Nibble} {s : State} (h : s.i.toNat + n.toNat ≤ 4096) :
    exec (.drw x y n) s =
      .next (((s.setFb (blit (s.getV x) (s.getV y) (s.spriteRows n) s.fb).fb).setFlag
        (blit (s.getV x) (s.getV y) (s.spriteRows n) s.fb).hit).setRedraw true) := by
  show orRaise s (s.memRead s.i.toNat n.toNat) _ = _
  rw [s.memRead_of_bounds h, orRaise_ok]
  rfl

theorem State.hit_blit_spriteRows (s : State) (x y : Reg) (n : Nibble) :
    (blit (s.getV x) (s.getV y) (s.spriteRows n) s.fb).hit = true ↔
      ∃ px py, px < 64 ∧ py < 32 ∧ s.spriteCovers x y n px py = true ∧ pixel s.fb px py = true := by
  simp only [hit_blit, State.spriteLit_spriteRows]

/-- Settles O45, from the pixels and the collision of a blit. -/
theorem drawXorsTheSpriteAndReportsCollision : Obligations.DrawXorsTheSpriteAndReportsCollision := by
  refine fun x y n s => ⟨fun hin => ⟨_, exec_drw_of_bounds hin, fun px py hpx hpy => ?_, fun hcol => ?_, fun hcol => ?_, rfl,
    fun r hr => State.getV_setFlag_ne _ _ hr, rfl⟩, fun hout => exec_drw_eq_fault.2 ⟨hout, rfl⟩⟩
  · rw [State.setRedraw_fb, State.setFlag_fb, State.setFb_fb, pixel_blit _ _ _ _ _ _ hpx hpy, s.spriteLit_spriteRows]
  · rw [(s.hit_blit_spriteRows x y n).2 hcol]
    exact State.getV_setFlag_VF _ true
  · rw [Bool.eq_false_iff.2 (mt (s.hit_blit_spriteRows x y n).1 hcol)]
    exact State.getV_setFlag_VF _ false

/-! ### One byte of the byte-wise blit -/

theorem getLsbD_and_ne_zero (b m : Byte) :
    (b &&& m != 0) = true ↔ ∃ j, j < 8 ∧ m.getLsbD j = true ∧ b.getLsbD j = true := by
  rw [bne_iff_ne]
  constructor
  · intro hne
    by_contra hnone
    refine hne (BitVec.eq_of_getLsbD_eq fun j hj => ?_)
    have hnot : ¬(b.getLsbD j = true ∧ m.getLsbD j = true) := fun ⟨hb, hm⟩ => hnone ⟨j, hj, hm, hb⟩
    simpa [BitVec.getLsbD_and] using hnot
  · rintro ⟨j, -, hm, hb⟩ hzero
    have hbit := congrArg (·.getLsbD j) hzero
    simp [hm, hb] at hbit

theorem Canvas.pixel_xorByte (c : Canvas) {b py qx qy : Nat} (m : Byte) (hb : b < 8) (hqx : qx < 64) (hqy : qy < 32) :
    pixel (c.xorByte (py * 8 + b) m).fb qx qy =
      (pixel c.fb qx qy ^^ (decide (py = qy ∧ qx / 8 = b) && m.getLsbD (7 - qx % 8))) := by
  simp only [pixel]
  rw [Canvas.fbByte_xorByte _ _ _ _ (by omega)]
  by_cases hbyte : py = qy ∧ qx / 8 = b
  · rw [if_pos (by omega), BitVec.getLsbD_xor, decide_eq_true hbyte, Bool.true_and]
  · rw [if_neg (by omega), decide_eq_false hbyte, Bool.false_and, Bool.xor_false]

theorem Canvas.hit_xorByte (c : Canvas) {b py : Nat} (m : Byte) :
    (c.xorByte (py * 8 + b) m).hit = true ↔
      c.hit = true ∨ ∃ px, px / 8 = b ∧ m.getLsbD (7 - px % 8) = true ∧ pixel c.fb px py = true := by
  rw [Canvas.xorByte, Bool.or_eq_true, getLsbD_and_ne_zero]
  refine or_congr_right ⟨?_, ?_⟩
  · rintro ⟨j, hj, hm, hlit⟩
    refine ⟨b * 8 + (7 - j), by omega, ?_, ?_⟩
    · rwa [show 7 - (b * 8 + (7 - j)) % 8 = j by omega]
    · rwa [pixel, show 7 - (b * 8 + (7 - j)) % 8 = j by omega, show (b * 8 + (7 - j)) / 8 = b by omega]
  · rintro ⟨px, rfl, hm, hlit⟩
    exact ⟨7 - px % 8, by omega, hm, hlit⟩

/-- The first byte holds the sprite bits from the start column to the end of the byte. -/
theorem getLsbD_first_mask (row : Byte) {x0 px : Nat} (h : px / 8 = x0 / 8) :
    (row >>> (x0 % 8)).getLsbD (7 - px % 8) = (decide (x0 ≤ px) && spriteBit row (px - x0)) := by
  rw [BitVec.getLsbD_ushiftRight, spriteBit]
  by_cases hpx : x0 ≤ px
  · rw [decide_eq_true hpx, Bool.true_and]
    congr 1
    omega
  · rw [decide_eq_false hpx, Bool.false_and, BitVec.getLsbD_of_ge _ _ (by omega)]

/-- The second byte holds the rest of the sprite bits. -/
theorem getLsbD_second_mask (row : Byte) {x0 px : Nat} (h : px / 8 = x0 / 8 + 1) :
    (row <<< (8 - x0 % 8)).getLsbD (7 - px % 8) = (decide (px < x0 + 8) && spriteBit row (px - x0)) := by
  rw [BitVec.getLsbD_shiftLeft, spriteBit]
  by_cases hpx : px < x0 + 8
  · rw [decide_eq_true hpx, decide_eq_true (by omega : 7 - px % 8 < 8),
      decide_eq_false (by omega : ¬7 - px % 8 < 8 - x0 % 8), Bool.not_false, Bool.true_and, Bool.true_and]
    congr 1
    omega
  · rw [decide_eq_false hpx, Bool.false_and, decide_eq_true (by omega : 7 - px % 8 < 8 - x0 % 8), Bool.not_true,
      Bool.and_false, Bool.false_and]

/-! ### One row of the byte-wise blit -/

/-- The start column lies on a byte boundary, or the second byte would pass the right edge (45_display.md R161). -/
theorem Canvas.drawRowBytes_one {c : Canvas} {x0 py : Nat} {row : Byte} (h : ¬(x0 % 8 ≠ 0 ∧ x0 / 8 < 7)) :
    c.drawRowBytes x0 py row = c.xorByte (py * 8 + x0 / 8) (row >>> (x0 % 8)) := if_neg h

theorem Canvas.drawRowBytes_two {c : Canvas} {x0 py : Nat} {row : Byte} (h : x0 % 8 ≠ 0 ∧ x0 / 8 < 7) :
    c.drawRowBytes x0 py row =
      (c.xorByte (py * 8 + x0 / 8) (row >>> (x0 % 8))).xorByte (py * 8 + (x0 / 8 + 1)) (row <<< (8 - x0 % 8)) :=
  if_pos h

/-- XORing in the bytes of a row flips the pixels under its sprite bits, as drawing them one by one does. -/
theorem Canvas.pixel_drawRowBytes (c : Canvas) {x0 py : Nat} (row : Byte) {qx qy : Nat} (hx0 : x0 < 64) (hqx : qx < 64)
    (hqy : qy < 32) :
    pixel (c.drawRowBytes x0 py row).fb qx qy =
      (pixel c.fb qx qy ^^ (decide (py = qy ∧ x0 ≤ qx ∧ qx < x0 + 8) && spriteBit row (qx - x0))) := by
  by_cases hrow : py = qy
  · subst hrow
    by_cases htwo : x0 % 8 ≠ 0 ∧ x0 / 8 < 7
    · rw [drawRowBytes_two htwo, pixel_xorByte _ _ (by omega) hqx hqy, pixel_xorByte _ _ (by omega) hqx hqy]
      by_cases h1 : qx / 8 = x0 / 8
      · have hend : qx < x0 + 8 := by omega
        simp [h1, getLsbD_first_mask row h1, hend]
      · by_cases h2 : qx / 8 = x0 / 8 + 1
        · have hstart : x0 ≤ qx := by omega
          simp [h2, getLsbD_second_mask row h2, hstart]
        · have hout : ¬(x0 ≤ qx ∧ qx < x0 + 8) := by omega
          simp only [h1, h2, hout, and_false, decide_false, Bool.false_and, Bool.xor_false]
    · rw [drawRowBytes_one htwo, pixel_xorByte _ _ (by omega) hqx hqy]
      by_cases h1 : qx / 8 = x0 / 8
      · have hend : qx < x0 + 8 := by omega
        simp [h1, getLsbD_first_mask row h1, hend]
      · have hout : ¬(x0 ≤ qx ∧ qx < x0 + 8) := by omega
        simp only [h1, hout, and_false, decide_false, Bool.false_and, Bool.xor_false]
  · by_cases htwo : x0 % 8 ≠ 0 ∧ x0 / 8 < 7
    · rw [drawRowBytes_two htwo, pixel_xorByte _ _ (by omega) hqx hqy, pixel_xorByte _ _ (by omega) hqx hqy]
      simp [hrow]
    · rw [drawRowBytes_one htwo, pixel_xorByte _ _ (by omega) hqx hqy]
      simp [hrow]

/-- The first byte of a row collides on the sprite bits it holds. -/
theorem Canvas.hit_xorByte_first (c : Canvas) (x0 py : Nat) (row : Byte) :
    (c.xorByte (py * 8 + x0 / 8) (row >>> (x0 % 8))).hit = true ↔
      c.hit = true ∨ ∃ j, (x0 + j) / 8 = x0 / 8 ∧ spriteBit row j = true ∧ pixel c.fb (x0 + j) py = true := by
  rw [hit_xorByte]
  refine or_congr_right ⟨?_, ?_⟩
  · rintro ⟨px, hbyte, hm, hlit⟩
    rw [getLsbD_first_mask row hbyte, Bool.and_eq_true, decide_eq_true_eq] at hm
    obtain ⟨hstart, hbit⟩ := hm
    obtain ⟨j, rfl⟩ := Nat.exists_eq_add_of_le hstart
    rw [Nat.add_sub_cancel_left] at hbit
    exact ⟨j, hbyte, hbit, hlit⟩
  · rintro ⟨j, hbyte, hbit, hlit⟩
    refine ⟨x0 + j, hbyte, ?_, hlit⟩
    rw [getLsbD_first_mask row hbyte, Nat.add_sub_cancel_left, hbit, decide_eq_true (Nat.le_add_right x0 j), Bool.true_and]

/-- The second byte of a row collides on the rest of the sprite bits. -/
theorem Canvas.hit_xorByte_second (c : Canvas) (x0 py : Nat) (row : Byte) :
    (c.xorByte (py * 8 + (x0 / 8 + 1)) (row <<< (8 - x0 % 8))).hit = true ↔
      c.hit = true ∨
        ∃ j, j < 8 ∧ (x0 + j) / 8 = x0 / 8 + 1 ∧ spriteBit row j = true ∧ pixel c.fb (x0 + j) py = true := by
  rw [hit_xorByte]
  refine or_congr_right ⟨?_, ?_⟩
  · rintro ⟨px, hbyte, hm, hlit⟩
    rw [getLsbD_second_mask row hbyte, Bool.and_eq_true, decide_eq_true_eq] at hm
    obtain ⟨hend, hbit⟩ := hm
    obtain ⟨j, rfl⟩ := Nat.exists_eq_add_of_le (by omega : x0 ≤ px)
    rw [Nat.add_sub_cancel_left] at hbit
    exact ⟨j, by omega, hbyte, hbit, hlit⟩
  · rintro ⟨j, hj, hbyte, hbit, hlit⟩
    refine ⟨x0 + j, hbyte, ?_, hlit⟩
    rw [getLsbD_second_mask row hbyte, Nat.add_sub_cancel_left, hbit, decide_eq_true (by omega : x0 + j < x0 + 8),
      Bool.true_and]

/-- XORing in the bytes of a row collides on the sprite bits left of the right edge, as drawing them one by one does. -/
theorem Canvas.hit_drawRowBytes (c : Canvas) {x0 py : Nat} (row : Byte) (hx0 : x0 < 64) (hpy : py < 32) :
    (c.drawRowBytes x0 py row).hit = true ↔
      c.hit = true ∨ ∃ j, j < 8 ∧ x0 + j < 64 ∧ spriteBit row j = true ∧ pixel c.fb (x0 + j) py = true := by
  by_cases htwo : x0 % 8 ≠ 0 ∧ x0 / 8 < 7
  · have hkept (j : Nat) (hbyte : (x0 + j) / 8 = x0 / 8 + 1) :
        pixel (c.xorByte (py * 8 + x0 / 8) (row >>> (x0 % 8))).fb (x0 + j) py = pixel c.fb (x0 + j) py := by
      rw [pixel_xorByte _ _ (by omega) (by omega) hpy]
      simp [hbyte]
    rw [drawRowBytes_two htwo, hit_xorByte_second, hit_xorByte_first, or_assoc]
    refine or_congr_right ⟨?_, ?_⟩
    · rintro (⟨j, hbyte, hbit, hlit⟩ | ⟨j, hj, hbyte, hbit, hlit⟩)
      · exact ⟨j, by omega, by omega, hbit, hlit⟩
      · exact ⟨j, hj, by omega, hbit, hkept j hbyte ▸ hlit⟩
    · rintro ⟨j, hj, hedge, hbit, hlit⟩
      by_cases hbyte : (x0 + j) / 8 = x0 / 8
      · exact .inl ⟨j, hbyte, hbit, hlit⟩
      · have hbyte' : (x0 + j) / 8 = x0 / 8 + 1 := by omega
        exact .inr ⟨j, hj, hbyte', hbit, (hkept j hbyte').symm ▸ hlit⟩
  · rw [drawRowBytes_one htwo, hit_xorByte_first]
    refine or_congr_right (exists_congr fun j => ?_)
    have hbyte : (x0 + j) / 8 = x0 / 8 ↔ j < 8 ∧ x0 + j < 64 := by omega
    rw [hbyte, and_assoc]

theorem Canvas.drawRowBytes_eq_drawRow (c : Canvas) {x0 py : Nat} (row : Byte) (hx0 : x0 < 64) (hpy : py < 32) :
    c.drawRowBytes x0 py row = c.drawRow x0 py row := by
  have hfb : (c.drawRowBytes x0 py row).fb = (c.drawRow x0 py row).fb := fb_ext_of_pixel fun px qy hpx hqy => by
    rw [c.pixel_drawRowBytes row hx0 hpx hqy, c.pixel_drawRow x0 py row px qy hpx hqy]
  have hhit : (c.drawRowBytes x0 py row).hit = (c.drawRow x0 py row).hit :=
    Bool.eq_iff_iff.2 ((c.hit_drawRowBytes row hx0 hpy).trans (c.hit_drawRow x0 py row hpy).symm)
  cases h : c.drawRowBytes x0 py row
  cases h' : c.drawRow x0 py row
  simp_all

theorem Canvas.drawRowsBytes_eq_drawRows (c : Canvas) {x0 : Nat} (y : Nat) (rows : List Byte) (hx0 : x0 < 64) :
    c.drawRowsBytes x0 y rows = c.drawRows x0 y rows := by
  induction rows generalizing c y with
  | nil => rfl
  | cons row rest ih =>
    rw [drawRowsBytes, drawRows, ih]
    split
    · rw [c.drawRowBytes_eq_drawRow row hx0 ‹_›]
    · rfl

/-- Settles O46, row by row: the two bytes of a row hold its sprite bits, less those past the right edge. -/
theorem byteWiseBlitEqualsPixelWiseBlit : Obligations.ByteWiseBlitEqualsPixelWiseBlit :=
  fun x y rows _ => Canvas.drawRowsBytes_eq_drawRows _ y.toNat rows (Nat.mod_lt x.toNat (by decide))

end Sys2Proof.Machine
end
